-- ==== Sys2Proof/Word.lean ====
section
/-! DEFINITION. The engine's widths (spec/00_scope.md R7, R8): bytes of the stream, 16-bit lengths, 32-bit payload words. -/

namespace Sys2Proof

/-- One byte of a stream, a packet or a memory (R8). -/
abbrev Byte := BitVec 8

/-- The 16-bit length field of a packet header (R83). -/
abbrev Half := BitVec 16

/-- The 32-bit word of every payload operand and internal counter (R7). -/
abbrev Word := BitVec 32

end Sys2Proof
end

