-- ==== Sys2Proof/Machine/Bytes.lean ====
section
/-! DEFINITION. Byte strings and little-endian fields (spec/00_scope.md R8, R9; spec/20_memory.md R65). -/

namespace Sys2Proof

/-- `b[i]`; a byte past the end of the string is never asked for by a rule and is 0 here. -/
def byteAt (b : List Byte) (i : Nat) : Byte := b.getD i 0

/-- `le16(b, i)` (R9). -/
def le16 (b : List Byte) (i : Nat) : Half := byteAt b (i + 1) ++ byteAt b i

/-- `le32(b, i)` (R9). -/
def le32 (b : List Byte) (i : Nat) : Word :=
  byteAt b (i + 3) ++ byteAt b (i + 2) ++ byteAt b (i + 1) ++ byteAt b i

/-- `put16(v)` (R9): least significant byte first. -/
def put16 (v : Half) : List Byte := [v.extractLsb' 0 8, v.extractLsb' 8 8]

/-- `put32(v)` (R9): least significant byte first. -/
def put32 (v : Word) : List Byte :=
  [v.extractLsb' 0 8, v.extractLsb' 8 8, v.extractLsb' 16 8, v.extractLsb' 24 8]

/-- `put64(v)` of a count reduced mod 2^64 (spec/45_checksum_md5.md R298). -/
def put64 (v : BitVec 64) : List Byte :=
  put32 (v.extractLsb' 0 32) ++ put32 (v.extractLsb' 32 32)

/-- Payload word k of a command: `wk = le32(payload, 4k)` (spec/30_encoding.md R84, R90). -/
def wordAt (payload : List Byte) (k : Nat) : Word := le32 payload (4 * k)

end Sys2Proof
end

