-- ==== Sys2Proof/Config.lean ====
section
/-! DEFINITION. The parameters the spec says a model takes as arguments (spec/00_scope.md R6), the check of R6 on
them, and the one free value of the model. The default values stand in Decode.lean (opcode numbers) and
Machine/Params.lean (all the others), where a later repair can mend them. -/

namespace Sys2Proof

/-- The transport chosen at reset: the parameter TRANSPORT (R6, R403). -/
inductive Transport where
  | uart
  | usbSerialJtag
  | usbOtg
  deriving DecidableEq, Repr

/-- The parameter OPCODE(name): one opcode byte per command of the map (spec/30_encoding.md R96). MEM_END and
MEM_FINISH share one. -/
structure OpcodeMap where
  sync : Byte
  flashBegin : Byte
  flashData : Byte
  flashEnd : Byte
  memBegin : Byte
  memData : Byte
  memEnd : Byte
  writeReg : Byte
  readReg : Byte
  changeBaudrate : Byte
  flashDeflBegin : Byte
  flashDeflData : Byte
  flashDeflEnd : Byte
  spiFlashMd5 : Byte
  eraseFlash : Byte
  eraseRegion : Byte
  readFlash : Byte
  deriving DecidableEq, Repr

/-- The parameter ERR(name) with ERR_SEQUENCE and ERR_BOUNDS (spec/60_exceptions.md R371). Three of the codes are
never raised (R371); they are kept because the table names them. -/
structure ErrorCodes where
  badDataLen : Byte
  badDataChecksum : Byte
  badBlocksize : Byte
  invalidCommand : Byte
  failedSpiOp : Byte
  failedSpiUnlock : Byte
  notInFlashMode : Byte
  inflateError : Byte
  notEnoughData : Byte
  tooMuchData : Byte
  cmdNotImplemented : Byte
  sequence : Byte
  bounds : Byte
  deriving DecidableEq, Repr

/-- A half-open range [lo, hi) of byte addresses: one member of REG_ALLOW (R6). -/
structure AddrRange where
  lo : Nat
  hi : Nat
  deriving DecidableEq, Repr

/-- One clause of RAM_OK(addr, len): it admits the regions whose address and length lie between its bounds and
whose end is at most `endMax`. A list of clauses can say every predicate on two 32-bit words (log 25). -/
structure RamClause where
  addrMin : Nat
  addrMax : Nat
  lenMin : Nat
  lenMax : Nat
  endMax : Nat
  deriving DecidableEq, Repr

/-- The parameters of R6, under their own names. -/
structure Config where
  /-- TRANSPORT -/
  transport : Transport
  /-- RXQ_CAP -/
  rxqCap : Nat
  /-- USB_PKT_MAX -/
  usbPktMax : Nat
  /-- MAX_WRITE_BLOCK -/
  maxWriteBlock : Nat
  /-- FRAME_CAP -/
  frameCap : Nat
  /-- FLASH_SIZE -/
  flashSize : Nat
  /-- SECTOR_SIZE -/
  sectorSize : Nat
  /-- READ_PKT_MAX -/
  readPktMax : Nat
  /-- REG_ALLOW -/
  regAllow : List AddrRange
  /-- RAM_OK, as the regions its clauses admit -/
  ramAllow : List RamClause
  /-- INFLATE_WINDOW -/
  inflateWindow : Nat
  /-- CSUM_SEED -/
  csumSeed : Byte
  /-- GREETING -/
  greeting : List Byte
  /-- OPCODE(name) -/
  opcodes : OpcodeMap
  /-- ERR(name), ERR_SEQUENCE and ERR_BOUNDS -/
  errs : ErrorCodes
  deriving DecidableEq, Repr

/-- "Constraints the model must check on its arguments" (R6): every one of them, and no other. -/
def Config.ok (c : Config) : Bool :=
  1 ≤ c.rxqCap && 1 ≤ c.maxWriteBlock && c.maxWriteBlock ≤ 0xFFFF - 16
    && 24 + c.maxWriteBlock ≤ c.frameCap
    && (c.sectorSize != 0 && c.sectorSize &&& (c.sectorSize - 1) == 0)
    && 1 ≤ c.flashSize && c.flashSize % c.sectorSize == 0
    && 1 ≤ c.readPktMax && 32768 ≤ c.inflateWindow

/-- An answer of the FLASH or the REG port (spec/20_memory.md R64), as a script or the free value names it. -/
inductive Answer where
  /-- The port's plain storage answers: the reference flash of R76, or the register as last written. -/
  | stored
  /-- A FLASH transaction answers `Fault`; a REG read, which has no fault (R64), answers what is stored. -/
  | fault
  /-- `FlashRead` answers these bytes; every other transaction answers as `stored`. -/
  | data (b : List Byte)
  /-- `RegRead` answers this word; every other transaction answers as `stored`. -/
  | word (v : Word)
  deriving DecidableEq, Repr, Inhabited

/-- FREE VALUE (log 3): the answer a port gives to draw number n when nothing scripts it (R64, 93 I6 to I8). No
body can be seen, so no proof can rest on which answer it is. -/
opaque Config.freeAnswer : Nat → Answer

end Sys2Proof
end

