-- ==== Sys2Proof/Syntax.lean ====
section
/-! DEFINITION. The commands (spec/30_encoding.md R90, R96). A command rule receives L, V and the payload
(spec/42_decoder.md R188); L is the payload's length (R183). The payload stays the bytes that arrived, because a
payload of the wrong length runs the command's own rule too (R186) and must be expressible. -/

namespace Sys2Proof

/-- The 17 opcodes of R96. -/
inductive Opcode where
  | sync
  | flashBegin
  | flashData
  | flashEnd
  | memBegin
  | memData
  | memEnd
  | writeReg
  | readReg
  | changeBaudrate
  | flashDeflBegin
  | flashDeflData
  | flashDeflEnd
  | spiFlashMd5
  | eraseFlash
  | eraseRegion
  | readFlash
  deriving DecidableEq, Repr

/-- The commands, one constructor per row of spec/opcode_table.json: `value` is the header's V, `payload` the L
bytes after the header. -/
inductive Instr where
  | sync (value : Word) (payload : List Byte)
  | flashBegin (value : Word) (payload : List Byte)
  | flashData (value : Word) (payload : List Byte)
  | flashEnd (value : Word) (payload : List Byte)
  | memBegin (value : Word) (payload : List Byte)
  | memData (value : Word) (payload : List Byte)
  | memEnd (value : Word) (payload : List Byte)
  | memFinish (value : Word) (payload : List Byte)
  | flashDeflBegin (value : Word) (payload : List Byte)
  | flashDeflData (value : Word) (payload : List Byte)
  | flashDeflEnd (value : Word) (payload : List Byte)
  | readFlash (value : Word) (payload : List Byte)
  | eraseFlash (value : Word) (payload : List Byte)
  | eraseRegion (value : Word) (payload : List Byte)
  | spiFlashMd5 (value : Word) (payload : List Byte)
  | readReg (value : Word) (payload : List Byte)
  | writeReg (value : Word) (payload : List Byte)
  | changeBaudrate (value : Word) (payload : List Byte)
  deriving DecidableEq, Repr

end Sys2Proof
end

