-- ==== Sys2Proof/WellFormed.lean ====
section
/-! DEFINITION. Which terms of `Instr` are requests a packet can carry. -/

namespace Sys2Proof

/-- The payload fits the 16-bit length field (spec/30_encoding.md R83). -/
def payloadFits (payload : List Byte) : Bool := payload.length < 2 ^ 16

/-- The payload carries a first word and that word is 0: `no_exec = 0` (R92). -/
def noExecZero (payload : List Byte) : Bool := payload.take 4 = [0, 0, 0, 0]

/-- A request a packet can carry: its payload fits L, and MEM_END and MEM_FINISH carry the first word that tells
them apart (R92, R96; a payload too short to carry it is a MEM_END, log 19). -/
def Instr.wf : Instr → Bool
  | .sync _ p => payloadFits p
  | .flashBegin _ p => payloadFits p
  | .flashData _ p => payloadFits p
  | .flashEnd _ p => payloadFits p
  | .memBegin _ p => payloadFits p
  | .memData _ p => payloadFits p
  | .memEnd _ p => payloadFits p && !noExecZero p
  | .memFinish _ p => payloadFits p && noExecZero p
  | .flashDeflBegin _ p => payloadFits p
  | .flashDeflData _ p => payloadFits p
  | .flashDeflEnd _ p => payloadFits p
  | .readFlash _ p => payloadFits p
  | .eraseFlash _ p => payloadFits p
  | .eraseRegion _ p => payloadFits p
  | .spiFlashMd5 _ p => payloadFits p
  | .readReg _ p => payloadFits p
  | .writeReg _ p => payloadFits p
  | .changeBaudrate _ p => payloadFits p

end Sys2Proof
end

