-- ==== Sys2Proof/Decode.lean ====
section
/-! DEFINITION. A frame read as a request packet (spec/30_encoding.md R83 to R97; spec/42_decoder.md R180 to R187),
and the packet of a request. The SLIP layer under it stands in Machine/Slip.lean. -/

namespace Sys2Proof

/-- The opcode bytes of R96, the default of OPCODE(name). -/
def defaultOpcodes : OpcodeMap where
  sync := 0x08
  flashBegin := 0x02
  flashData := 0x03
  flashEnd := 0x04
  memBegin := 0x05
  memData := 0x07
  memEnd := 0x06
  writeReg := 0x09
  readReg := 0x0A
  changeBaudrate := 0x0F
  flashDeflBegin := 0x10
  flashDeflData := 0x11
  flashDeflEnd := 0x12
  spiFlashMd5 := 0x13
  eraseFlash := 0xD0
  eraseRegion := 0xD1
  readFlash := 0xD2

/-- OPCODE(name). -/
def OpcodeMap.code (m : OpcodeMap) : Opcode → Byte
  | .sync => m.sync
  | .flashBegin => m.flashBegin
  | .flashData => m.flashData
  | .flashEnd => m.flashEnd
  | .memBegin => m.memBegin
  | .memData => m.memData
  | .memEnd => m.memEnd
  | .writeReg => m.writeReg
  | .readReg => m.readReg
  | .changeBaudrate => m.changeBaudrate
  | .flashDeflBegin => m.flashDeflBegin
  | .flashDeflData => m.flashDeflData
  | .flashDeflEnd => m.flashDeflEnd
  | .spiFlashMd5 => m.spiFlashMd5
  | .eraseFlash => m.eraseFlash
  | .eraseRegion => m.eraseRegion
  | .readFlash => m.readFlash

/-- The opcodes of R96 in the table's order. -/
def allOpcodes : List Opcode :=
  [.flashBegin, .flashData, .flashEnd, .memBegin, .memEnd, .memData, .sync, .writeReg, .readReg,
   .changeBaudrate, .flashDeflBegin, .flashDeflData, .flashDeflEnd, .spiFlashMd5, .eraseFlash,
   .eraseRegion, .readFlash]

/-- "the opcode byte `op` alone selects the command" (R96). -/
def OpcodeMap.find (m : OpcodeMap) (op : Byte) : Option Opcode :=
  allOpcodes.find? fun c => m.code c == op

/-- No two commands share an opcode byte: what makes the map readable backwards. -/
def OpcodeMap.distinct (m : OpcodeMap) : Prop :=
  ∀ a b : Opcode, m.code a = m.code b → a = b

/-- `no_exec = w0` is there and is 0, which makes opcode 0x06 a MEM_FINISH (R92). -/
def isFinish (payload : List Byte) : Bool := 4 ≤ payload.length && wordAt payload 0 == 0

/-- The request that an opcode, V and a payload make (R184, R188). -/
def assemble (c : Opcode) (value : Word) (payload : List Byte) : Instr :=
  match c with
  | .sync => .sync value payload
  | .flashBegin => .flashBegin value payload
  | .flashData => .flashData value payload
  | .flashEnd => .flashEnd value payload
  | .memBegin => .memBegin value payload
  | .memData => .memData value payload
  | .memEnd => if isFinish payload then .memFinish value payload else .memEnd value payload
  | .writeReg => .writeReg value payload
  | .readReg => .readReg value payload
  | .changeBaudrate => .changeBaudrate value payload
  | .flashDeflBegin => .flashDeflBegin value payload
  | .flashDeflData => .flashDeflData value payload
  | .flashDeflEnd => .flashDeflEnd value payload
  | .spiFlashMd5 => .spiFlashMd5 value payload
  | .eraseFlash => .eraseFlash value payload
  | .eraseRegion => .eraseRegion value payload
  | .readFlash => .readFlash value payload

/-- Why a frame is no request. Each but `empty` carries the opcode byte its failure response echoes. -/
inductive FrameReject where
  /-- An empty frame: ignored without a response (R180). -/
  | empty
  /-- 1 to 7 bytes (R181). -/
  | short (op : Byte)
  /-- A direction byte other than 0x00 (R182). -/
  | badDirection (op : Byte)
  /-- `n ≠ 8 + L` (R183). -/
  | badLength (op : Byte)
  /-- An opcode that is not in the table (R187). -/
  | notImplemented (op : Byte)
  deriving DecidableEq, Repr

/-- The checks of R180 in the order of R185, then the request. -/
def decode (m : OpcodeMap) (f : List Byte) : Except FrameReject Instr :=
  if f.length = 0 then .error .empty
  else if f.length < 8 then .error (.short (if 2 ≤ f.length then byteAt f 1 else 0))
  else if byteAt f 0 ≠ 0x00 then .error (.badDirection (byteAt f 1))
  else if f.length ≠ 8 + (le16 f 2).toNat then .error (.badLength (byteAt f 1))
  else match m.find (byteAt f 1) with
    | none => .error (.notImplemented (byteAt f 1))
    | some c => .ok (assemble c (le32 f 4) (f.drop 8))

/-- The opcode of a request (R96). -/
def Instr.opcode : Instr → Opcode
  | .sync _ _ => .sync
  | .flashBegin _ _ => .flashBegin
  | .flashData _ _ => .flashData
  | .flashEnd _ _ => .flashEnd
  | .memBegin _ _ => .memBegin
  | .memData _ _ => .memData
  | .memEnd _ _ => .memEnd
  | .memFinish _ _ => .memEnd
  | .flashDeflBegin _ _ => .flashDeflBegin
  | .flashDeflData _ _ => .flashDeflData
  | .flashDeflEnd _ _ => .flashDeflEnd
  | .readFlash _ _ => .readFlash
  | .eraseFlash _ _ => .eraseFlash
  | .eraseRegion _ _ => .eraseRegion
  | .spiFlashMd5 _ _ => .spiFlashMd5
  | .readReg _ _ => .readReg
  | .writeReg _ _ => .writeReg
  | .changeBaudrate _ _ => .changeBaudrate

/-- The header's value field V of a request (R86). -/
def Instr.value : Instr → Word
  | .sync v _ => v
  | .flashBegin v _ => v
  | .flashData v _ => v
  | .flashEnd v _ => v
  | .memBegin v _ => v
  | .memData v _ => v
  | .memEnd v _ => v
  | .memFinish v _ => v
  | .flashDeflBegin v _ => v
  | .flashDeflData v _ => v
  | .flashDeflEnd v _ => v
  | .readFlash v _ => v
  | .eraseFlash v _ => v
  | .eraseRegion v _ => v
  | .spiFlashMd5 v _ => v
  | .readReg v _ => v
  | .writeReg v _ => v
  | .changeBaudrate v _ => v

/-- The payload of a request (R83). -/
def Instr.payload : Instr → List Byte
  | .sync _ p => p
  | .flashBegin _ p => p
  | .flashData _ p => p
  | .flashEnd _ p => p
  | .memBegin _ p => p
  | .memData _ p => p
  | .memEnd _ p => p
  | .memFinish _ p => p
  | .flashDeflBegin _ p => p
  | .flashDeflData _ p => p
  | .flashDeflEnd _ p => p
  | .readFlash _ p => p
  | .eraseFlash _ p => p
  | .eraseRegion _ p => p
  | .spiFlashMd5 _ p => p
  | .readReg _ p => p
  | .writeReg _ p => p
  | .changeBaudrate _ p => p

/-- The request packet of R83: `dir`, `op`, `L`, `V`, payload. -/
def encode (m : OpcodeMap) (i : Instr) : List Byte :=
  [0x00, m.code i.opcode] ++ put16 (BitVec.ofNat 16 i.payload.length) ++ put32 i.value ++ i.payload

/-- The k low bytes of a number, least significant first. -/
def lowBytes : Nat → Nat → List Byte
  | 0, _ => []
  | k + 1, w => BitVec.ofNat 8 w :: lowBytes k (w / 256)

/-- The packet whose low bits are w and whose other bits are 0: nbits/8 bytes of w, lengthened with zeros to the
header and the L payload bytes that the header declares (R83). -/
def tablePacket (nbits w : Nat) : List Byte :=
  let given := lowBytes (nbits / 8) w
  let header := given ++ List.replicate (8 - given.length) 0
  header ++ List.replicate (8 + (le16 header 2).toNat - header.length) 0

/-- The request the decoder reads from a table word (bit 0 the least significant bit of the first byte), with the
default opcode numbers; none where the decoder refuses. -/
def decodeTableWord (nbits w : Nat) : Option Instr :=
  match decode defaultOpcodes (tablePacket nbits w) with
  | .ok i => some i
  | .error _ => none

end Sys2Proof
end

