-- ==== Sys2Proof/Machine/Params.lean ====
section
/-! DEFINITION. The parameter values that State.reset holds: the defaults of spec/00_scope.md R6 and, for the OPEN
ones, those of spec/95_test_vectors.md section 0 (DESIGN CHOICE, log 1). -/

namespace Sys2Proof

/-- The error codes of spec/60_exceptions.md R371. -/
def defaultErrorCodes : ErrorCodes where
  badDataLen := 0xC0
  badDataChecksum := 0xC1
  badBlocksize := 0xC2
  invalidCommand := 0xC3
  failedSpiOp := 0xC4
  failedSpiUnlock := 0xC5
  notInFlashMode := 0xC6
  inflateError := 0xC7
  notEnoughData := 0xC8
  tooMuchData := 0xC9
  cmdNotImplemented := 0xFF
  sequence := 0xC3
  bounds := 0xC3

/-- DESIGN CHOICE (log 1): the parameters of 95_test_vectors.md section 0, with RXQ_CAP = 65536. -/
def defaultConfig : Config where
  transport := .uart
  rxqCap := 0x10000
  usbPktMax := 64
  maxWriteBlock := 0x4000
  frameCap := 24 + 0x4000
  flashSize := 0x400000
  sectorSize := 4096
  readPktMax := 4096
  regAllow := [{ lo := 0x60000000, hi := 0x60001000 }]
  ramAllow := [{ addrMin := 0x3FFE0000, addrMax := 0xFFFFFFFF, lenMin := 0, lenMax := 0xFFFFFFFF,
                 endMax := 0x40000000 }]
  inflateWindow := 32768
  csumSeed := 0xEF
  greeting := [0x4F, 0x48, 0x41, 0x49]
  opcodes := defaultOpcodes
  errs := defaultErrorCodes

end Sys2Proof
end

