-- ==== Sys2Proof/Machine/State.lean ====
section
/-! DEFINITION. Everything the spec gives the engine as state (spec/10_state.md R22), the storage behind its ports
(spec/20_memory.md R61), the model's own fields, the ways a step can stop, and the state after reset
(spec/70_reset_and_hazards.md R400). -/

namespace Sys2Proof.Machine

/-- Storage of `BitVec w` values by address, where an address that is not listed reads as `fill`. -/
structure Store (w : Nat) (fill : BitVec w) where
  cells : List (Nat × BitVec w)
  deriving DecidableEq, Repr

/-- A byte memory: its cells are `Host.Cell`s. -/
abbrev Memory (fill : Byte) := Store 8 fill

/-- `S.dstate` (R26). -/
inductive DecoderState where
  | hunt
  | inFrame
  | escape
  deriving DecidableEq, Repr

/-- `S.mode` (R28). -/
inductive Mode where
  | boot
  | cmd
  | stream
  | halted
  | executed
  | rebooting
  deriving DecidableEq, Repr

/-- `S.sess.kind` (R29). -/
inductive SessionKind where
  | none
  | flash
  | mem
  | defl
  deriving DecidableEq, Repr

/-- `S.sess` (R22, R30). -/
structure Session where
  kind : SessionKind
  base : Word
  total : Word
  nblocks : Word
  bsize : Word
  written : Word
  nextSeq : Word
  rcsum : Byte
  deriving DecidableEq, Repr

/-- An MD5 context (spec/45_checksum_md5.md R296). -/
structure Md5Context where
  a : Word
  b : Word
  c : Word
  d : Word
  nbytes : Nat
  pend : List Byte
  deriving DecidableEq, Repr

/-- `S.rs`, the READ_FLASH stream (R33; spec/44_single_commands.md R252). -/
structure ReadStream where
  addr : Word
  len : Word
  pkt : Word
  inflight : Word
  sent : Word
  acked : Word
  md5 : Md5Context
  deriving DecidableEq, Repr

/-- `phase` of the inflate state (spec/46_inflate.md R320). -/
inductive InflatePhase where
  | zhdr
  | blkhdr
  | stored
  | dynhdr
  | codes
  | trailer
  | done
  | error
  deriving DecidableEq, Repr

/-- One symbol of a Huffman code: its length in bits, its code read as a number, the symbol (R331). -/
structure CodeEntry where
  len : Nat
  code : Nat
  sym : Nat
  deriving DecidableEq, Repr

/-- `pend` of the inflate state: "the partial item being decoded: its kind, and the values read so far" (R320). -/
inductive InflatePending where
  /-- Nothing of the current phase is read yet. -/
  | none
  /-- A stored block with this many bytes to come (R326). -/
  | storedBytes (left : Nat)
  /-- A dynamic header whose counts are read: the code-length code's lengths so far (R328). -/
  | codeLengthLengths (nlit ndist nclen : Nat) (got : List Nat)
  /-- A dynamic header whose code-length code is built: the code lengths so far (R329). -/
  | codeLengths (nlit ndist : Nat) (code : List CodeEntry) (got : List Nat)
  /-- A length is decoded and its distance is to come (R335, R336). -/
  | copyLength (len : Nat)
  deriving DecidableEq, Repr

/-- `S.infl` (R32, R320). -/
structure Inflate where
  phase : InflatePhase
  bits : List Bool
  final : Bool
  lit : List CodeEntry
  dist : List CodeEntry
  outTotal : Word
  hist : List Byte
  adler : Word
  pend : InflatePending
  deriving DecidableEq, Repr

/-- `S.fatal` (R34). -/
inductive FatalCause where
  | none
  | rxqOverflow
  | flashFault
  | invariant
  deriving DecidableEq, Repr

/-- What MAIN asks of a port: one of the transactions of R64, without its answer. -/
inductive PortRequest where
  | flashErase (addr len : Nat)
  | flashEraseChip
  | flashWrite (addr : Nat) (bytes : List Byte)
  | flashRead (addr len : Nat)
  | memWrite (addr : Nat) (bytes : List Byte)
  | regRead (addr : Nat)
  | regWrite (addr : Nat) (value : Word)
  | delay (us : Word)
  | tx (bytes : List Byte)
  deriving DecidableEq, Repr

/-- One port transaction with its answer, one that its port never answers, or one signal (R64). -/
inductive PortEvent where
  /-- `FlashErase(addr, len)`; `ok` is false when it answered `Fault`. -/
  | flashErase (addr len : Nat) (ok : Bool)
  /-- `FlashEraseChip()`. -/
  | flashEraseChip (ok : Bool)
  /-- `FlashWrite(addr, bytes)`. -/
  | flashWrite (addr : Nat) (bytes : List Byte) (ok : Bool)
  /-- `FlashRead(addr, len)` with its data, or none for `Fault`. -/
  | flashRead (addr len : Nat) (answer : Option (List Byte))
  /-- `MemWrite(addr, bytes)`. -/
  | memWrite (addr : Nat) (bytes : List Byte)
  /-- `RegRead(addr)` with its word. -/
  | regRead (addr : Nat) (answer : Word)
  /-- `RegWrite(addr, value)`. -/
  | regWrite (addr : Nat) (value : Word)
  /-- `Delay(us)`. -/
  | delay (us : Word)
  /-- `Tx(bytes)`. -/
  | tx (bytes : List Byte)
  /-- `Signal(RESET_REQ)`. -/
  | resetReq
  /-- `Signal(EXEC, entry)`. -/
  | execSignal (entry : Word)
  /-- `Signal(BAUD, rate)`. -/
  | baud (rate : Word)
  /-- `Signal(FATAL, cause)`, with the code of the cause (R34, R380). -/
  | fatalSignal (code : Nat)
  /-- A transaction that was issued and never answered (R64, R417, 93 I9). -/
  | unanswered (request : PortRequest)
  deriving DecidableEq, Repr

/-- What happens next (R13, R375, R404; log 7). -/
inductive Event where
  /-- A turn of MAIN. -/
  | mainTurn
  /-- An RX event of the UART: one byte (R130). -/
  | rxByte (x : Byte)
  /-- An RX event of a USB transport: one packet (R131). -/
  | rxPacket (b : List Byte)
  /-- The external reset (R383, R404). -/
  | reset
  deriving DecidableEq, Repr

/-- How a run ends with a fault. -/
inductive Fault where
  /-- Raised by a turn of MAIN in mode HALTED: "HALTED is a fault end" (R28) and MAIN has no step there. Safe: the
  spec gives the engine no step either. -/
  | halted (cause : FatalCause)
  deriving DecidableEq, Repr

/-- How a run ends without a fault, or a state the model gives no meaning. -/
inductive Refusal where
  /-- Raised by an arm of exec whose instruction has no meaning yet; no arm of this model raises it. Safe. -/
  | notModelled (mnemonic : String)
  /-- Raised by a turn of MAIN in mode EXECUTED: control is with the loaded code, outside the engine (R28, R404).
  Safe: the spec gives the engine no step either. -/
  | handedToTarget
  /-- Raised by a turn of MAIN in mode REBOOTING: the engine waits for the reset it asked for (R28, R212). Safe: an
  external reset, and nothing else, leads on. -/
  | awaitingReset
  /-- Raised by every step when the parameters break a constraint of R6. Safe: R6 has the model check them. -/
  | parametersRefused
  /-- Raised by an RX event that the transport never delivers: a packet on Uart, a byte on USB, an empty packet or
  one above USB_PKT_MAX (R130, R131, 93 I23). Safe: no transport makes one. -/
  | notDelivered
  deriving DecidableEq, Repr

/-- The engine's record of R22 under the spec's names, the parameters (R6), the storage behind the ports (R61), and
the model's own fields (`inbox`, `answers`, `draws`, `silent`, `trace`). -/
structure State where
  /-- The parameters of R6; no step writes them. -/
  cfg : Config
  rxq : List Byte
  ovf : Bool
  ovfCnt : Word
  dstate : DecoderState
  fbuf : List Byte
  mode : Mode
  sess : Session
  infl : Option Inflate
  rs : Option ReadStream
  fatal : FatalCause
  transport : Transport
  /-- The transaction whose answer MAIN waits for without end (R64, R417); none while the ports answer. -/
  waiting : Option PortRequest
  /-- What the reference flash of R76 holds: an unlisted byte is erased, 0xFF. -/
  flash : Memory 0xFF
  /-- The target's RAM; an unlisted byte is 0x00 (DESIGN CHOICE, log 5; the engine never reads it). -/
  ram : Memory 0x00
  /-- The target's registers; an unlisted word is 0 (DESIGN CHOICE, log 6). -/
  regs : Store 32 0
  /-- MODEL: what happens next; when it is empty MAIN moves (log 7). -/
  inbox : List Event
  /-- MODEL: the answers the FLASH and REG ports give next; when it is empty the free value answers (log 3). -/
  answers : List Answer
  /-- MODEL: how many answers were drawn (log 3). -/
  draws : Nat
  /-- MODEL: the transactions that their ports never answer, each by its number in `trace` (log 26). -/
  silent : List Nat
  /-- MODEL: every port transaction and signal so far, oldest first (log 20). -/
  trace : List PortEvent
  deriving DecidableEq, Repr

/-- `S.sess` at reset (R400). -/
def Session.reset : Session where
  kind := .none
  base := 0
  total := 0
  nblocks := 0
  bsize := 0
  written := 0
  nextSeq := 0
  rcsum := 0

/-- The machine right after reset (R400), with the default parameters (log 1), erased flash (log 4), and the model's
own fields empty. -/
def State.reset : State where
  cfg := defaultConfig
  rxq := []
  ovf := false
  ovfCnt := 0
  dstate := .hunt
  fbuf := []
  mode := .boot
  sess := Session.reset
  infl := none
  rs := none
  fatal := .none
  transport := defaultConfig.transport
  waiting := none
  flash := { cells := [] }
  ram := { cells := [] }
  regs := { cells := [] }
  inbox := []
  answers := []
  draws := 0
  silent := []
  trace := []

end Sys2Proof.Machine
end

