-- ==== Sys2Proof/Machine/Checksum.lean ====
section
/-! DEFINITION. The data checksum and the session's running checksum (spec/45_checksum_md5.md R290, R291;
spec/43_session_commands.md R208). -/

namespace Sys2Proof.Machine

/-- `x(d) = d[0] XOR … XOR d[len(d)−1]`, 0 for the empty string (R208). -/
def xorBytes (d : List Byte) : Byte := d.foldl (fun acc x => acc ^^^ x) 0

/-- `csum(d) = CSUM_SEED XOR d[0] XOR …` (R290). -/
def csum (seed : Byte) (d : List Byte) : Byte := seed ^^^ xorBytes d

end Sys2Proof.Machine
end

