-- ==== Sys2Proof/Machine/Flags.lean ====
section
/-! DEFINITION. The engine has no condition codes; its one flag is the sticky overflow flag with its counter
(spec/10_state.md R24, R25, R36; spec/40_rxq.md R132). The numbers of the fatal causes stand here too (R34). -/

namespace Sys2Proof.Machine

/-- `min(n + 1, 2^32 − 1)` (R132). -/
def saturatingSucc (n : Word) : Word := if n = 0xFFFFFFFF then n else n + 1

/-- `overflow(1)`: the flag is set, the counter counts one rejected push, the queue is as it was (R132). -/
def overflow (s : State) : State := { s with ovf := true, ovfCnt := saturatingSucc s.ovfCnt }

/-- The encoding of `S.fatal` (R34, R380). -/
def FatalCause.code : FatalCause → Nat
  | .none => 0
  | .rxqOverflow => 1
  | .flashFault => 2
  | .invariant => 3

end Sys2Proof.Machine
end

