-- ==== Sys2Proof/Machine/Huffman.lean ====
section
/-! DEFINITION. Bit fields and Huffman codes of the deflate format (spec/46_inflate.md R323, R327, R331 to R333). -/

namespace Sys2Proof.Machine

/-- The bits of a byte from bit 0, the least significant, to bit 7 (R323). -/
def byteBits (x : Byte) : List Bool := (List.range 8).map x.getLsbD

/-- The bits of a byte string in arrival order (R323). -/
def streamBits (b : List Byte) : List Bool := b.flatMap byteBits

/-- A field of n bits, the first bit read being the least significant, and the bits after it; none when they have
not all arrived (R323). -/
def takeBits : Nat → List Bool → Option (Nat × List Bool)
  | 0, bs => some (0, bs)
  | _ + 1, [] => none
  | n + 1, b :: bs => (takeBits n bs).map fun (v, r) => (b.toNat + 2 * v, r)

/-- The bits after the next byte boundary of the input: whole bytes arrive, so the bits that remain say where the
boundary is (R326, R339). -/
def alignBits (bs : List Bool) : List Bool := bs.drop (bs.length % 8)

/-- `bl_count[b]` (R331). -/
def lengthCount (lens : List Nat) (b : Nat) : Nat := (lens.filter fun l => l == b).length

/-- `next_code[0..15]` before any symbol is given its code (R331). -/
def firstCodes (lens : List Nat) : List Nat :=
  ((List.range 15).foldl (fun (acc : List Nat × Nat) i =>
      let code := (acc.2 + (if i = 0 then 0 else lengthCount lens i)) * 2
      (acc.1 ++ [code], code))
    ([0], 0)).1

/-- The symbols from `sym` on, in increasing order, each given the next code of its length (R331). -/
def assignCodes : Nat → List Nat → List Nat → List CodeEntry
  | _, _, [] => []
  | sym, next, l :: ls =>
    if l = 0 then assignCodes (sym + 1) next ls
    else { len := l, code := next.getD l 0, sym := sym } ::
      assignCodes (sym + 1) (next.set l (next.getD l 0 + 1)) ls

/-- The canonical code of a sequence of lengths (R331). -/
def buildCode (lens : List Nat) : List CodeEntry := assignCodes 0 (firstCodes lens) lens

/-- `left` after lengths 1 to 15, or none when it went below 0: an over-subscribed code (R332). -/
def codeLeft (lens : List Nat) : Option Nat :=
  (List.range 15).foldl (fun (left : Option Nat) i =>
      left.bind fun l =>
        if 2 * l < lengthCount lens (i + 1) then none else some (2 * l - lengthCount lens (i + 1)))
    (some 1)

/-- A code-length code must be complete (R328, R332). -/
def codeComplete (lens : List Nat) : Bool := codeLeft lens == some 0

/-- A literal/length or distance code may also be incomplete with exactly one symbol, of length 1, or have no symbol
at all (R332). -/
def codeAccepted (lens : List Nat) : Bool :=
  match codeLeft lens with
  | none => false
  | some left =>
    left == 0 || (lens.filter fun l => l != 0) == [1] || (lens.filter fun l => l != 0) == []

/-- The lengths of the fixed literal/length code (R327). -/
def fixedLitLengths : List Nat :=
  List.replicate 144 8 ++ List.replicate 112 9 ++ List.replicate 24 7 ++ List.replicate 8 8

/-- The lengths of the fixed distance code (R327). -/
def fixedDistLengths : List Nat := List.replicate 32 5

/-- What decoding one symbol comes to (R333). -/
inductive SymbolResult where
  /-- The bits ran out before the symbol ended: decoding suspends. -/
  | more
  /-- No symbol has this code. -/
  | bad
  /-- A symbol, and the bits after it. -/
  | sym (s : Nat) (rest : List Bool)
  deriving DecidableEq, Repr

/-- Symbol decoding from `l` bits read with value `code` (R333): each bit is appended as the least significant; an
empty code fails with its first bit (log 16). -/
def decodeSymbolFrom (t : List CodeEntry) : Nat → Nat → List Bool → SymbolResult
  | _, _, [] => .more
  | l, code, b :: bs =>
    match t.find? fun e => e.len == l + 1 && e.code == 2 * code + b.toNat with
    | some e => .sym e.sym bs
    | none =>
      if 15 ≤ l + 1 || t.isEmpty then .bad else decodeSymbolFrom t (l + 1) (2 * code + b.toNat) bs

/-- Symbol decoding (R333). -/
def decodeSymbol (t : List CodeEntry) (bs : List Bool) : SymbolResult := decodeSymbolFrom t 0 0 bs

end Sys2Proof.Machine
end

