-- ==== Sys2Proof/Machine/Inflate.lean ====
section
/-! DEFINITION. The inflater (spec/46_inflate.md R320 to R344). An item that has not arrived whole is read again from
its start when more bits come; the values of a header of many items stand in `pend` (R322). -/

namespace Sys2Proof.Machine

/-- `inflate_init()` (R321). The fields R321 does not name are not read before they are written (log 14). -/
def inflateInit : Inflate where
  phase := .zhdr
  bits := []
  final := false
  lit := []
  dist := []
  outTotal := 0
  hist := []
  adler := 1
  pend := .none

/-- One byte of Adler-32 (R340). -/
def adlerByte (w : Word) (x : Byte) : Word :=
  let a := (w.toNat % 65536 + x.toNat) % 65521
  let b := (w.toNat / 65536 + a) % 65521
  BitVec.ofNat 32 (b * 65536 + a)

/-- `output(x)`, but for the feed's own output, which the caller keeps (R338). `out_total` is a 32-bit counter (R7);
that it wraps is the model's choice, which no output depends on (log 29). -/
def outputByte (window : Nat) (st : Inflate) (x : Byte) : Inflate :=
  { st with
    outTotal := st.outTotal + 1
    hist := (st.hist ++ [x]).drop (st.hist.length + 1 - window)
    adler := adlerByte st.adler x }

/-- The back-reference copy of n bytes at distance d, one byte at a time (R337): the state and the bytes output. -/
def copyBytes (window d : Nat) : Nat → Inflate → Inflate × List Byte
  | 0, st => (st, [])
  | n + 1, st =>
    let x := st.hist.getD (st.hist.length - d) 0
    let (st', out) := copyBytes window d n (outputByte window st x)
    (st', x :: out)

/-- The extra bits and base of length symbol 257 + i (R335). -/
def lengthTable : List (Nat × Nat) :=
  [(0, 3), (0, 4), (0, 5), (0, 6), (0, 7), (0, 8), (0, 9), (0, 10), (1, 11), (1, 13)]
  ++ [(1, 15), (1, 17), (2, 19), (2, 23), (2, 27), (2, 31), (3, 35), (3, 43), (3, 51), (3, 59)]
  ++ [(4, 67), (4, 83), (4, 99), (4, 115), (5, 131), (5, 163), (5, 195), (5, 227), (0, 258)]

/-- The extra bits and base of distance symbol i (R336). -/
def distanceTable : List (Nat × Nat) :=
  [(0, 1), (0, 2), (0, 3), (0, 4), (1, 5), (1, 7), (2, 9), (2, 13), (3, 17), (3, 25)]
  ++ [(4, 33), (4, 49), (5, 65), (5, 97), (6, 129), (6, 193), (7, 257), (7, 385), (8, 513), (8, 769)]
  ++ [(9, 1025), (9, 1537), (10, 2049), (10, 3073), (11, 4097), (11, 6145), (12, 8193), (12, 12289),
      (13, 16385), (13, 24577)]

/-- The symbol order of the code-length code's lengths (R328). -/
def codeLengthOrder : List Nat := [16, 17, 18, 0, 8, 7, 9, 6, 10, 5, 11, 4, 12, 3, 13, 2, 14, 1, 15]

/-- The 19 lengths of the code-length code, by symbol, from those given in the order of R328. -/
def codeLengthLens (got : List Nat) : List Nat :=
  (List.range 19).map fun sym =>
    match codeLengthOrder.idxOf? sym with
    | some k => got.getD k 0
    | none => 0

/-- What one item comes to (R322, R342). -/
inductive ItemResult where
  /-- The item has not arrived whole. -/
  | more
  /-- The item is invalid; it outputs nothing. -/
  | bad
  /-- The state after the item, and the bytes it output. -/
  | item (st : Inflate) (out : List Byte)
  deriving DecidableEq, Repr

/-- The end of a block: "If `final = 0`, phase BLKHDR follows. If `final = 1`, phase TRAILER follows." (R338) -/
def blockEnd (st : Inflate) : Inflate :=
  { st with phase := if st.final then .trailer else .blkhdr, pend := .none }

/-- The zlib header (R324). DEDUCED (log 15): its two bytes are one item. -/
def zlibHeaderItem (st : Inflate) : ItemResult :=
  match takeBits 8 st.bits with
  | none => .more
  | some (cmf, r1) =>
    match takeBits 8 r1 with
    | none => .more
    | some (flg, r2) =>
      if cmf % 16 = 8 && cmf / 16 ≤ 7 && (cmf * 256 + flg) % 31 = 0 && flg / 32 % 2 = 0 then
        .item { st with bits := r2, phase := .blkhdr, pend := .none } []
      else .bad

/-- The block header: BFINAL and BTYPE (R325), with the fixed codes of a type 1 block (R327). DEDUCED (log 15): the two
fields are read as one item, so `final` is set when both have arrived. -/
def blockHeaderItem (st : Inflate) : ItemResult :=
  match takeBits 1 st.bits with
  | none => .more
  | some (bfinal, r1) =>
    match takeBits 2 r1 with
    | none => .more
    | some (btype, r2) =>
      let st := { st with bits := r2, final := bfinal == 1, pend := .none }
      match btype with
      | 0 => .item { st with phase := .stored } []
      | 1 => .item { st with phase := .codes, lit := buildCode fixedLitLengths,
                             dist := buildCode fixedDistLengths } []
      | 2 => .item { st with phase := .dynhdr } []
      | _ => .bad

/-- LEN and NLEN of a stored block, from the next byte boundary on (R326). DEDUCED (log 15): they and the bits discarded
before them are one item, so all of them stay in `bits` until NLEN has arrived. -/
def storedHeaderItem (st : Inflate) : ItemResult :=
  match takeBits 16 (alignBits st.bits) with
  | none => .more
  | some (len, r1) =>
    match takeBits 16 r1 with
    | none => .more
    | some (nlen, r2) =>
      if nlen ≠ len ^^^ 0xFFFF then .bad
      else if len = 0 then .item (blockEnd { st with bits := r2 }) []
      else .item { st with bits := r2, pend := .storedBytes len } []

/-- One byte of a stored block with `left` to come (R326). -/
def storedByteItem (window left : Nat) (st : Inflate) : ItemResult :=
  match takeBits 8 st.bits with
  | none => .more
  | some (v, r) =>
    let x := BitVec.ofNat 8 v
    let st := outputByte window { st with bits := r } x
    if left ≤ 1 then .item (blockEnd st) [x] else .item { st with pend := .storedBytes (left - 1) } [x]

/-- HLIT, HDIST and HCLEN (R328). DEDUCED (log 15): the three counts are one item. -/
def dynamicCountsItem (st : Inflate) : ItemResult :=
  match takeBits 5 st.bits with
  | none => .more
  | some (hlit, r1) =>
    match takeBits 5 r1 with
    | none => .more
    | some (hdist, r2) =>
      match takeBits 4 r2 with
      | none => .more
      | some (hclen, r3) =>
        if 286 < hlit + 257 || 30 < hdist + 1 then .bad
        else .item { st with bits := r3, pend := .codeLengthLengths (hlit + 257) (hdist + 1) (hclen + 4) [] } []

/-- One 3-bit length of the code-length code; after the last the code is built and checked (R328). -/
def codeLengthLengthItem (nlit ndist nclen : Nat) (got : List Nat) (st : Inflate) : ItemResult :=
  match takeBits 3 st.bits with
  | none => .more
  | some (v, r) =>
    let got := got ++ [v]
    if got.length < nclen then
      .item { st with bits := r, pend := .codeLengthLengths nlit ndist nclen got } []
    else if codeComplete (codeLengthLens got) then
      .item { st with bits := r, pend := .codeLengths nlit ndist (buildCode (codeLengthLens got)) [] } []
    else .bad

/-- More code lengths of a dynamic header; after the last both codes are built and checked (R329, R330). -/
def addLengths (nlit ndist : Nat) (code : List CodeEntry) (got more : List Nat) (r : List Bool)
    (st : Inflate) : ItemResult :=
  let lens := got ++ more
  if nlit + ndist < lens.length then .bad
  else if lens.length < nlit + ndist then
    .item { st with bits := r, pend := .codeLengths nlit ndist code lens } []
  else
    let lit := lens.take nlit
    let dist := lens.drop nlit
    if lit.getD 256 0 ≠ 0 && codeAccepted lit && codeAccepted dist then
      .item { st with bits := r, phase := .codes, lit := buildCode lit, dist := buildCode dist,
                      pend := .none } []
    else .bad

/-- One symbol of the code-length alphabet with its extra bits (R329). -/
def codeLengthItem (nlit ndist : Nat) (code : List CodeEntry) (got : List Nat) (st : Inflate) : ItemResult :=
  match decodeSymbol code st.bits with
  | .more => .more
  | .bad => .bad
  | .sym s r =>
    if s ≤ 15 then addLengths nlit ndist code got [s] r st
    else if s = 16 then
      match takeBits 2 r with
      | none => .more
      | some (e, r) =>
        match got.getLast? with
        | none => .bad
        | some prev => addLengths nlit ndist code got (List.replicate (3 + e) prev) r st
    else if s = 17 then
      match takeBits 3 r with
      | none => .more
      | some (e, r) => addLengths nlit ndist code got (List.replicate (3 + e) 0) r st
    else
      match takeBits 7 r with
      | none => .more
      | some (e, r) => addLengths nlit ndist code got (List.replicate (11 + e) 0) r st

/-- One literal/length symbol with its extra bits (R334, R335). -/
def literalItem (window : Nat) (st : Inflate) : ItemResult :=
  match decodeSymbol st.lit st.bits with
  | .more => .more
  | .bad => .bad
  | .sym s r =>
    if s < 256 then
      let x := BitVec.ofNat 8 s
      .item (outputByte window { st with bits := r } x) [x]
    else if s = 256 then .item (blockEnd { st with bits := r }) []
    else
      match lengthTable[s - 257]? with
      | none => .bad
      | some (extra, base) =>
        match takeBits extra r with
        | none => .more
        | some (e, r) => .item { st with bits := r, pend := .copyLength (base + e) } []

/-- One distance symbol with its extra bits, and the copy of `len` bytes (R336, R337). -/
def distanceItem (window len : Nat) (st : Inflate) : ItemResult :=
  match decodeSymbol st.dist st.bits with
  | .more => .more
  | .bad => .bad
  | .sym s r =>
    match distanceTable[s]? with
    | none => .bad
    | some (extra, base) =>
      match takeBits extra r with
      | none => .more
      | some (e, r) =>
        if st.outTotal.toNat < base + e then .bad
        else
          let (st', out) := copyBytes window (base + e) len { st with bits := r, pend := .none }
          .item st' out

/-- The Adler-32 trailer, from the next byte boundary on: four bytes, big-endian (R339). DEDUCED (log 15): the bits
discarded before it stay in `bits` until it has arrived. -/
def trailerItem (st : Inflate) : ItemResult :=
  match takeBits 8 (alignBits st.bits) with
  | none => .more
  | some (b3, r1) =>
    match takeBits 8 r1 with
    | none => .more
    | some (b2, r2) =>
      match takeBits 8 r2 with
      | none => .more
      | some (b1, r3) =>
        match takeBits 8 r3 with
        | none => .more
        | some (b0, r4) =>
          if b3 * 0x1000000 + b2 * 0x10000 + b1 * 0x100 + b0 = st.adler.toNat then
            .item { st with bits := r4, phase := .done, pend := .none } []
          else .bad

/-- One item in the phase the inflater stands in. Any input after DONE is invalid (R343). The last branch of CODES
and of DYNHDR is a pending item of another phase, which no rule produces. -/
def inflateItem (window : Nat) (st : Inflate) : ItemResult :=
  match st.phase with
  | .zhdr => zlibHeaderItem st
  | .blkhdr => blockHeaderItem st
  | .stored =>
    match st.pend with
    | .storedBytes left => storedByteItem window left st
    | _ => storedHeaderItem st
  | .dynhdr =>
    match st.pend with
    | .none => dynamicCountsItem st
    | .codeLengthLengths nlit ndist nclen got => codeLengthLengthItem nlit ndist nclen got st
    | .codeLengths nlit ndist code got => codeLengthItem nlit ndist code got st
    | _ => .bad
  | .codes =>
    match st.pend with
    | .none => literalItem window st
    | .copyLength len => distanceItem window len st
    | _ => .bad
  | .trailer => trailerItem st
  | .done => if st.bits = [] then .more else .bad
  | .error => .more

/-- Up to n items: the bytes output and the state. It stops at the first invalid item, whose phase is ERROR
(R342; the bits left over are dropped with it, log 17), or when the bits run out. -/
def inflateItems (window : Nat) : Nat → Inflate → List Byte × Inflate
  | 0, st => ([], st)
  | n + 1, st =>
    match inflateItem window st with
    | .more => ([], st)
    | .bad => ([], { st with phase := .error, bits := [], pend := .none })
    | .item st' out =>
      let (rest, st'') := inflateItems window n st'
      (out ++ rest, st'')

/-- The first result of `inflate_feed(st, data)` and the state after it (R341). Every item takes at least one bit, so
the count of items never runs out before the bits do. -/
def inflateFeed (window : Nat) (st : Inflate) (data : List Byte) : List Byte × Inflate :=
  if data = [] then ([], st)
  else if st.phase = .error then ([], st)
  else
    let bits := st.bits ++ streamBits data
    inflateItems window (bits.length + 1) { st with bits := bits }

/-- The second result of `inflate_feed` (R341). -/
inductive InflateStatus where
  | more
  | done
  | error
  deriving DecidableEq, Repr

/-- `status` (R341). -/
def Inflate.status (st : Inflate) : InflateStatus :=
  match st.phase with
  | .error => .error
  | .done => .done
  | _ => .more

end Sys2Proof.Machine
end

