-- ==== Sys2Proof/Machine/Md5.lean ====
section
/-! DEFINITION. MD5 as the engine computes it (spec/45_checksum_md5.md R295 to R302). -/

namespace Sys2Proof.Machine

/-- `md5_init()` (R296). -/
def md5Init : Md5Context where
  a := 0x67452301
  b := 0xEFCDAB89
  c := 0x98BADCFE
  d := 0x10325476
  nbytes := 0
  pend := []

/-- The constants T[i] (R302). -/
def md5Table : List Word :=
  [0xD76AA478, 0xE8C7B756, 0x242070DB, 0xC1BDCEEE, 0xF57C0FAF, 0x4787C62A, 0xA8304613, 0xFD469501,
   0x698098D8, 0x8B44F7AF, 0xFFFF5BB1, 0x895CD7BE, 0x6B901122, 0xFD987193, 0xA679438E, 0x49B40821]
  ++ [0xF61E2562, 0xC040B340, 0x265E5A51, 0xE9B6C7AA, 0xD62F105D, 0x02441453, 0xD8A1E681, 0xE7D3FBC8,
   0x21E1CDE6, 0xC33707D6, 0xF4D50D87, 0x455A14ED, 0xA9E3E905, 0xFCEFA3F8, 0x676F02D9, 0x8D2A4C8A]
  ++ [0xFFFA3942, 0x8771F681, 0x6D9D6122, 0xFDE5380C, 0xA4BEEA44, 0x4BDECFA9, 0xF6BB4B60, 0xBEBFBC70,
   0x289B7EC6, 0xEAA127FA, 0xD4EF3085, 0x04881D05, 0xD9D4D039, 0xE6DB99E5, 0x1FA27CF8, 0xC4AC5665]
  ++ [0xF4292244, 0x432AFF97, 0xAB9423A7, 0xFC93A039, 0x655B59C3, 0x8F0CCC92, 0xFFEFF47D, 0x85845DD1,
   0x6FA87E4F, 0xFE2CE6E0, 0xA3014314, 0x4E0811A1, 0xF7537E82, 0xBD3AF235, 0x2AD7D2BB, 0xEB86D391]

/-- The shift amount s[i] (R301). -/
def md5Shift (i : Nat) : Nat :=
  (match i / 16 with
    | 0 => [7, 12, 17, 22]
    | 1 => [5, 9, 14, 20]
    | 2 => [4, 11, 16, 23]
    | _ => [6, 10, 15, 21]).getD (i % 4) 0

/-- The round function f and the message index g of round i (R300). -/
def md5Round (i : Nat) (b c d : Word) : Word × Nat :=
  match i / 16 with
  | 0 => ((b &&& c) ||| (~~~b &&& d), i)
  | 1 => ((d &&& b) ||| (~~~d &&& c), (5 * i + 1) % 16)
  | 2 => (b ^^^ c ^^^ d, (3 * i + 5) % 16)
  | _ => (c ^^^ (b ||| ~~~d), (7 * i) % 16)

/-- One round of the compression function on (a, b, c, d) (R299). -/
def md5Step (m : List Byte) (r : Word × Word × Word × Word) (i : Nat) : Word × Word × Word × Word :=
  let (a, b, c, d) := r
  let (f, g) := md5Round i b c d
  (d, b + (a + f + md5Table.getD i 0 + wordAt m g).rotateLeft (md5Shift i), b, c)

/-- `compress((A, B, C, D), M)` on the chaining words of a context (R299). -/
def md5Compress (x : Md5Context) (m : List Byte) : Md5Context :=
  let (a, b, c, d) := (List.range 64).foldl (md5Step m) (x.a, x.b, x.c, x.d)
  { x with a := x.a + a, b := x.b + b, c := x.c + c, d := x.d + d }

/-- Compresses the first k blocks of 64 bytes of the pending bytes and drops them (R297). -/
def md5Blocks : Nat → Md5Context → Md5Context
  | 0, x => x
  | k + 1, x => md5Blocks k { md5Compress x (x.pend.take 64) with pend := x.pend.drop 64 }

/-- `md5_update(c, b)` (R297). -/
def md5Update (x : Md5Context) (b : List Byte) : Md5Context :=
  md5Blocks ((x.pend ++ b).length / 64) { x with pend := x.pend ++ b, nbytes := x.nbytes + b.length }

/-- The padding `[0x80] ++ [0x00]*padlen ++ put64(bits)` of a context (R298); `padlen = (55 − nbytes) mod 64`. -/
def md5Padding (x : Md5Context) : List Byte :=
  [0x80] ++ List.replicate ((55 + (64 - x.nbytes % 64)) % 64) 0 ++ put64 (BitVec.ofNat 64 (x.nbytes * 8))

/-- `md5_final(c)`: 16 bytes (R298, R304). -/
def md5Final (x : Md5Context) : List Byte :=
  let y := md5Update x (md5Padding x)
  put32 y.a ++ put32 y.b ++ put32 y.c ++ put32 y.d

/-- The digest of a byte string. -/
def md5 (b : List Byte) : List Byte := md5Final (md5Update md5Init b)

end Sys2Proof.Machine
end

