-- ==== Sys2Proof/Machine/Operands.lean ====
section
/-! DEFINITION. How a command reads its payload (spec/30_encoding.md R90 to R92; spec/42_decoder.md R186, R188), the
bounds predicates (spec/20_memory.md R60), and the invariants a command may rely on (spec/10_state.md R31;
spec/44_single_commands.md R252). -/

namespace Sys2Proof.Machine

/-- `data_len = w0` of a data command (R91). -/
def dataLen (payload : List Byte) : Nat := (wordAt payload 0).toNat

/-- `sequence = w1` of a data command (R91). -/
def dataSeq (payload : List Byte) : Word := wordAt payload 1

/-- `data = payload[16 .. 16+data_len)` of a data command (R91). -/
def dataBytes (payload : List Byte) : List Byte := (payload.drop 16).take (dataLen payload)

/-- One entry of WRITE_REG: words 4j to 4j+3 (R90, R272). -/
structure RegEntry where
  addr : Word
  value : Word
  mask : Word
  delay : Word
  deriving DecidableEq, Repr

/-- Entry j of WRITE_REG (R272). -/
def regEntry (payload : List Byte) (j : Nat) : RegEntry where
  addr := wordAt payload (4 * j)
  value := wordAt payload (4 * j + 1)
  mask := wordAt payload (4 * j + 2)
  delay := wordAt payload (4 * j + 3)

/-- The k = L/16 entries of WRITE_REG in payload order (R272). -/
def regEntries (payload : List Byte) : List RegEntry := (List.range (payload.length / 16)).map (regEntry payload)

/-- `InFlash(a, n)` (R60). -/
def inFlash (cfg : Config) (a n : Nat) : Bool := a + n ≤ cfg.flashSize

/-- `InRegs(a)` (R60). -/
def inRegs (cfg : Config) (a : Nat) : Bool :=
  a % 4 == 0 && cfg.regAllow.any fun r => r.lo ≤ a && a + 4 ≤ r.hi

/-- One clause of RAM_OK admits the region. -/
def clauseAdmits (r : RamClause) (a n : Nat) : Bool :=
  r.addrMin ≤ a && a ≤ r.addrMax && r.lenMin ≤ n && n ≤ r.lenMax && a + n ≤ r.endMax

/-- `RAM_OK(a, n)` (R6, R60): some clause admits the region. Nothing else is checked of it (R214). -/
def ramOk (cfg : Config) (a n : Nat) : Bool := cfg.ramAllow.any fun r => clauseAdmits r a n

/-- `erase_range(offset, total)` (R203): its start and its length. -/
def eraseRange (cfg : Config) (offset total : Nat) : Nat × Nat :=
  let ea := offset / cfg.sectorSize * cfg.sectorSize
  let stop := (offset + total + (cfg.sectorSize - 1)) / cfg.sectorSize * cfg.sectorSize
  (ea, if total = 0 then 0 else stop - ea)

/-- The address the session writes next: `base + written` (R30, R66). -/
def Session.writeAddr (q : Session) : Nat := q.base.toNat + q.written.toNat

/-- What remains of the declared size: `total − written` (R207). -/
def Session.room (q : Session) : Nat := q.total.toNat - q.written.toNat

/-- The region check that opened a session of this kind (R31). -/
def Session.regionOk (cfg : Config) (q : Session) : Bool :=
  match q.kind with
  | .none => true
  | .flash => inFlash cfg q.base.toNat q.total.toNat
  | .mem => ramOk cfg q.base.toNat q.total.toNat
  | .defl => inFlash cfg q.base.toNat q.total.toNat

/-- The session invariants of R31 while a session is open, but for its last, which speaks of S.infl. -/
def Session.ok (cfg : Config) (q : Session) : Bool :=
  q.kind == .none
    || (q.written.toNat ≤ q.total.toNat && 1 ≤ q.bsize.toNat && q.bsize.toNat ≤ cfg.maxWriteBlock
        && q.regionOk cfg)

/-- `S.infl ≠ none` exactly when `kind = DEFL` (R31). -/
def inflateMatches (q : Session) (infl : Option Inflate) : Bool := infl.isSome == (q.kind == .defl)

/-- The invariants of R31. -/
def State.sessionOk (s : State) : Bool := s.sess.ok s.cfg && inflateMatches s.sess s.infl

/-- An MD5 context that absorbed n bytes (R296, R297). -/
def Md5Context.absorbed (x : Md5Context) (n : Nat) : Bool := x.nbytes == n && x.pend.length == n % 64

/-- What R250 checked and R252 keeps of a READ_FLASH stream. -/
def ReadStream.ok (cfg : Config) (r : ReadStream) : Bool :=
  r.acked.toNat ≤ r.sent.toNat && r.sent.toNat ≤ r.len.toNat
    && inFlash cfg r.addr.toNat r.len.toNat
    && 1 ≤ r.pkt.toNat && r.pkt.toNat ≤ cfg.readPktMax && 1 ≤ r.inflight.toNat
    && r.md5.absorbed r.sent.toNat

end Sys2Proof.Machine
end

