-- ==== Sys2Proof/Machine/Slip.lean ====
section
/-! DEFINITION. The SLIP codec (spec/30_encoding.md R80 to R82; spec/41_slip.md R150 to R165). -/

namespace Sys2Proof.Machine

/-- END, the delimiter (R80). -/
def slipEnd : Byte := 0xC0

/-- ESC, the escape byte (R80). -/
def slipEsc : Byte := 0xDB

/-- ESC_END (R80). -/
def slipEscEnd : Byte := 0xDC

/-- ESC_ESC (R80). -/
def slipEscEsc : Byte := 0xDD

/-- What the decoder makes of one byte: its state, its buffer, and the frame it delivers, if any. -/
structure SlipResult where
  dstate : DecoderState
  fbuf : List Byte
  delivered : Option (List Byte)
  deriving DecidableEq, Repr

/-- One more frame byte, or the frame over capacity and discarded (R155, R156). -/
def slipAppend (cap : Nat) (fbuf : List Byte) (x : Byte) : SlipResult :=
  if fbuf.length < cap then { dstate := .inFrame, fbuf := fbuf ++ [x], delivered := none }
  else { dstate := .hunt, fbuf := [], delivered := none }

/-- The decoder's byte step (R151 to R158). -/
def slipByte (cap : Nat) (d : DecoderState) (fbuf : List Byte) (x : Byte) : SlipResult :=
  match d with
  | .hunt =>
    if x = slipEnd then { dstate := .inFrame, fbuf := fbuf, delivered := none }
    else { dstate := .hunt, fbuf := fbuf, delivered := none }
  | .inFrame =>
    if x = slipEnd then { dstate := .inFrame, fbuf := [], delivered := some fbuf }
    else if x = slipEsc then { dstate := .escape, fbuf := fbuf, delivered := none }
    else slipAppend cap fbuf x
  | .escape =>
    if x = slipEscEnd then slipAppend cap fbuf slipEnd
    else if x = slipEscEsc then slipAppend cap fbuf slipEsc
    else if x = slipEnd then { dstate := .inFrame, fbuf := [], delivered := none }
    else { dstate := .hunt, fbuf := [], delivered := none }

/-- The decoder over a byte string: its state and buffer afterwards, and the frames delivered, in order. -/
def slipDecode (cap : Nat) (d : DecoderState) (fbuf : List Byte) :
    List Byte → DecoderState × List Byte × List (List Byte)
  | [] => (d, fbuf, [])
  | x :: r =>
    let q := slipByte cap d fbuf x
    let (d', fbuf', fs) := slipDecode cap q.dstate q.fbuf r
    (d', fbuf', q.delivered.toList ++ fs)

/-- `esc(b)` (R160). -/
def slipEscape (b : Byte) : List Byte :=
  if b = slipEnd then [slipEsc, slipEscEnd] else if b = slipEsc then [slipEsc, slipEscEsc] else [b]

/-- `enc(p)` (R81, R160). -/
def slipEncode (p : List Byte) : List Byte := [slipEnd] ++ p.flatMap slipEscape ++ [slipEnd]

end Sys2Proof.Machine
end

