-- ==== Sys2Proof/Machine/Storage.lean ====
section
/-! DEFINITION. The named operations over storage: the flash, the RAM and the registers behind the ports
(spec/20_memory.md R61 to R66, R76). Cells are in one canonical form: addresses strictly rising, and no cell equal to
what an unlisted address reads as. -/

namespace Sys2Proof.Machine

/-- What address `a` reads as among the cells. -/
def readCells {w : Nat} (fill : BitVec w) : List (Nat × BitVec w) → Nat → BitVec w
  | [], _ => fill
  | (k, v) :: r, a => if k = a then v else readCells fill r a

/-- The cells after `v` is stored at `a`: the cell is put in its place, or removed when `v` is what an unlisted
address reads as. -/
def setCells {w : Nat} (fill : BitVec w) : List (Nat × BitVec w) → Nat → BitVec w → List (Nat × BitVec w)
  | [], a, v => if v = fill then [] else [(a, v)]
  | (k, x) :: r, a, v =>
    if a < k then (if v = fill then (k, x) :: r else (a, v) :: (k, x) :: r)
    else if a = k then (if v = fill then r else (a, v) :: r)
    else (k, x) :: setCells fill r a v

/-- The value at one address. -/
def Store.read {w : Nat} {fill : BitVec w} (m : Store w fill) (a : Nat) : BitVec w := readCells fill m.cells a

/-- The storage after one value is stored. -/
def Store.write {w : Nat} {fill : BitVec w} (m : Store w fill) (a : Nat) (v : BitVec w) : Store w fill :=
  { cells := setCells fill m.cells a v }

/-- The storage after every address of [a, a+n) is given the value `fill`. -/
def Store.clear {w : Nat} {fill : BitVec w} (m : Store w fill) (a n : Nat) : Store w fill :=
  { cells := m.cells.filter fun c => c.1 < a || a + n ≤ c.1 }

/-- The storage after every address is given the value `fill`. -/
def Store.clearAll {w : Nat} {fill : BitVec w} (_ : Store w fill) : Store w fill := { cells := [] }

/-- The canonical form. -/
def Store.wf {w : Nat} {fill : BitVec w} (m : Store w fill) : Bool :=
  decide (m.cells.Pairwise fun x y => x.1 < y.1) && m.cells.all fun c => c.2 != fill

/-- Every listed address is below `n`. -/
def Store.within {w : Nat} {fill : BitVec w} (m : Store w fill) (n : Nat) : Bool := m.cells.all fun c => c.1 < n

/-- Byte i of the string goes to address a + i (R66). -/
def Store.writeBytes {fill : Byte} (m : Memory fill) (a : Nat) : List Byte → Memory fill
  | [] => m
  | x :: r => Store.writeBytes (m.write a x) (a + 1) r

/-- `FlashWrite` of the reference flash: byte a + i becomes `old AND b[i]` (R76). -/
def Store.program {fill : Byte} (m : Memory fill) (a : Nat) : List Byte → Memory fill
  | [] => m
  | x :: r => Store.program (m.write a (m.read a &&& x)) (a + 1) r

/-- Bytes [a, a+n) (R66). -/
def Store.readBytes {fill : Byte} (m : Memory fill) (a n : Nat) : List Byte :=
  (List.range n).map fun i => m.read (a + i)

end Sys2Proof.Machine
end

