-- ==== Sys2Proof/Machine/Ops.lean ====
section
/-! DEFINITION. The operations the commands share: the receive FIFO, the ports, responses, the two tiers of failure
(taking an exception), the external reset (the only way back from one), and the session operations. -/

namespace Sys2Proof.Machine

/-! ## The receive FIFO (spec/40_rxq.md) -/

/-- A push of one whole RX event: all of it, or none of it and an overflow (R130, R131). -/
def pushBytes (b : List Byte) (s : State) : State :=
  if s.rxq.length + b.length ≤ s.cfg.rxqCap then { s with rxq := s.rxq ++ b } else overflow s

/-- The RX event is one the chosen transport delivers (R130, R131, R403). -/
def deliverable (s : State) (b : List Byte) (packet : Bool) : Bool :=
  match s.transport with
  | .uart => !packet && b.length == 1
  | .usbSerialJtag => packet && 1 ≤ b.length && b.length ≤ s.cfg.usbPktMax
  | .usbOtg => packet && 1 ≤ b.length && b.length ≤ s.cfg.usbPktMax

/-- The ISR's step (R130, R131, R375). -/
def isrStep (b : List Byte) (packet : Bool) (s : State) : Host.Outcome State Fault Refusal :=
  if deliverable s b packet then .next (pushBytes b s) else .refused .notDelivered

/-! ## The ports (spec/20_memory.md R64) -/

/-- A transaction or a signal happened. -/
def record (e : PortEvent) (s : State) : State := { s with trace := s.trace ++ [e] }

/-- The answer the port gives to the next draw: the scripted one, or the free value (log 3). -/
def nextAnswer (s : State) : Answer :=
  match s.answers with
  | a :: _ => a
  | [] => Config.freeAnswer s.draws

/-- The state after one draw. -/
def drawn (s : State) : State := { s with answers := s.answers.tail, draws := s.draws + 1 }

/-- What a transaction comes to: `Ok`, `Data` or `Word`; `Fault`; or no answer, ever (R64). -/
inductive PortResult (α : Type) where
  | ok (answer : α) (s : State)
  | fault (s : State)
  | silent (s : State)

/-- The next transaction is one that its port never answers (log 26). -/
def portSilent (s : State) : Bool := s.silent.contains s.trace.length

/-- MAIN has issued a transaction and waits for its answer without end (R64, R417). -/
def unanswered (q : PortRequest) (s : State) : State := record (.unanswered q) { s with waiting := some q }

/-- MAIN issues a transaction (R64): what its port answers, or nothing. -/
def request {α : Type} (q : PortRequest) (s : State) (answered : PortResult α) : PortResult α :=
  if portSilent s then .silent (unanswered q s) else answered

/-- `FlashErase(a, n)`. -/
def flashErase (a n : Nat) (s : State) : PortResult Unit :=
  request (.flashErase a n) s <|
    match nextAnswer s with
    | .fault => .fault (record (.flashErase a n false) (drawn s))
    | _ => .ok () (record (.flashErase a n true) { drawn s with flash := s.flash.clear a n })

/-- `FlashEraseChip()`. -/
def flashEraseChip (s : State) : PortResult Unit :=
  request .flashEraseChip s <|
    match nextAnswer s with
    | .fault => .fault (record (.flashEraseChip false) (drawn s))
    | _ => .ok () (record (.flashEraseChip true) { drawn s with flash := s.flash.clearAll })

/-- `FlashWrite(a, b)`. -/
def flashWrite (a : Nat) (b : List Byte) (s : State) : PortResult Unit :=
  request (.flashWrite a b) s <|
    match nextAnswer s with
    | .fault => .fault (record (.flashWrite a b false) (drawn s))
    | _ => .ok () (record (.flashWrite a b true) { drawn s with flash := s.flash.program a b })

/-- The n bytes that an answer to `FlashRead(a, n)` stands for: its own, and what is stored where it gives none. -/
def answerBytes (s : State) (a n : Nat) : Answer → List Byte
  | .data b => (List.range n).map fun i => b.getD i (s.flash.read (a + i))
  | _ => s.flash.readBytes a n

/-- `FlashRead(a, n)`: `Data(b)` with len(b) = n, or `Fault`. -/
def flashRead (a n : Nat) (s : State) : PortResult (List Byte) :=
  request (.flashRead a n) s <|
    match nextAnswer s with
    | .fault => .fault (record (.flashRead a n none) (drawn s))
    | ans => .ok (answerBytes s a n ans) (record (.flashRead a n (some (answerBytes s a n ans))) (drawn s))

/-- `MemWrite(a, b)`: an answer is always `Ok`. The MEM space has 2^32 bytes (R61): what a region that RAM_OK admits
past its end would hold is not stored (log 25). -/
def memWrite (a : Nat) (b : List Byte) (s : State) : PortResult Unit :=
  request (.memWrite a b) s
    (.ok () (record (.memWrite a b) { s with ram := s.ram.writeBytes a (b.take (2 ^ 32 - a)) }))

/-- The word that an answer to `RegRead(a)` stands for. -/
def answerWord (s : State) (a : Nat) : Answer → Word
  | .word v => v
  | _ => s.regs.read a

/-- `RegRead(a)`: `Word(v)`, any v. -/
def regRead (a : Nat) (s : State) : PortResult Word :=
  request (.regRead a) s
    (.ok (answerWord s a (nextAnswer s)) (record (.regRead a (answerWord s a (nextAnswer s))) (drawn s)))

/-- `RegWrite(a, v)`: an answer is always `Ok`. -/
def regWrite (a : Nat) (v : Word) (s : State) : PortResult Unit :=
  request (.regWrite a v) s (.ok () (record (.regWrite a v) { s with regs := s.regs.write a v }))

/-- `Delay(us)`: an answer is always `Ok`. -/
def delay (us : Word) (s : State) : PortResult Unit := request (.delay us) s (.ok () (record (.delay us) s))

/-- `Emit(p)`: `Tx(enc(p))`; an answer is always `Ok` (spec/41_slip.md R161). -/
def emit (p : List Byte) (s : State) : PortResult Unit :=
  request (.tx (slipEncode p)) s (.ok () (record (.tx (slipEncode p)) s))

/-! ## Responses (spec/42_decoder.md R189, R190; spec/30_encoding.md R87 to R89) -/

/-- A response packet: direction 0x01, the echoed opcode, the length of the data section, the value, the data. -/
def responsePacket (op : Byte) (value : Word) (data : List Byte) : List Byte :=
  [0x01, op] ++ put16 (BitVec.ofNat 16 data.length) ++ put32 value ++ data

/-- The packet of `respond(value, body)` (R189). -/
def successPacket (op : Byte) (value : Word) (body : List Byte) : List Byte :=
  responsePacket op value (body ++ [0x00, 0x00])

/-- The packet of `raise Fail(code)` (R190). -/
def failurePacket (op code : Byte) : List Byte := responsePacket op 0 [0x01, code]

/-- `respond(value, body)` of a command (R189). -/
def respond (c : Opcode) (value : Word) (body : List Byte) (s : State) : PortResult Unit :=
  emit (successPacket (s.cfg.opcodes.code c) value body) s

/-! ## Taking an exception: the recoverable tier and the fatal tier (spec/60_exceptions.md) -/

/-- `raise Fatal(cause)` (R380): the cause is kept, the mode is HALTED, the diagnostic is signalled with the code of the
cause, no response is sent (R382). `S.rs` goes with the mode STREAM (R33, R252; log 12). -/
def raiseFatal (cause : FatalCause) (s : State) : State :=
  record (.fatalSignal cause.code) { s with fatal := cause, mode := .halted, rs := none }

/-- The rest of a rule after a transaction: it runs when the answer has come. The `!` after a FLASH transaction: a
`Fault` answer raises `Fatal(FLASH_FAULT)` (R380, R381). Without an answer MAIN stays where it is (R64, R193, R417). -/
def PortResult.andThen {α : Type} (r : PortResult α) (k : α → State → State) : State :=
  match r with
  | .ok a s => k a s
  | .fault s => raiseFatal .flashFault s
  | .silent s => s

/-- The same where the rest of the rule goes on with transactions of its own. -/
def PortResult.bind {α β : Type} (r : PortResult α) (k : α → State → PortResult β) : PortResult β :=
  match r with
  | .ok a s => k a s
  | .fault s => .fault s
  | .silent s => .silent s

/-- The end of a rule whose last act is a transaction. -/
def PortResult.done {α : Type} (r : PortResult α) : State := r.andThen fun _ s => s

/-- The failures a command can raise (R371). -/
inductive Failure where
  | badDataLen
  | badDataChecksum
  | badBlocksize
  | invalidCommand
  | notInFlashMode
  | inflateError
  | tooMuchData
  | cmdNotImplemented
  | sequence
  | bounds
  deriving DecidableEq, Repr

/-- ERR(name) of a failure (R371). -/
def Failure.code (e : ErrorCodes) : Failure → Byte
  | .badDataLen => e.badDataLen
  | .badDataChecksum => e.badDataChecksum
  | .badBlocksize => e.badBlocksize
  | .invalidCommand => e.invalidCommand
  | .notInFlashMode => e.notInFlashMode
  | .inflateError => e.inflateError
  | .tooMuchData => e.tooMuchData
  | .cmdNotImplemented => e.cmdNotImplemented
  | .sequence => e.sequence
  | .bounds => e.bounds

/-- `raise Fail(code)`: the failure response is sent and the command ends; no address is saved and no mode changes
(R190, R379). `op` is the opcode byte echoed. -/
def raiseFail (op : Byte) (f : Failure) (s : State) : State :=
  (emit (failurePacket op (f.code s.cfg.errs)) s).done

/-- `respond(0, [])` as the last act of a command (R189). -/
def ack (c : Opcode) (s : State) : State := (respond c 0 [] s).done

/-- `raise Fail(code)` of a command, which echoes its own opcode (R190). -/
def fail (c : Opcode) (f : Failure) (s : State) : State := raiseFail (s.cfg.opcodes.code c) f s

/-- The external reset: every field of the engine takes its reset value, TRANSPORT is read again, and what R400 says
reset does not touch is as it was (R383, R400, R403). -/
def externalReset (s : State) : State :=
  { State.reset with
    cfg := s.cfg
    transport := s.cfg.transport
    flash := s.flash
    ram := s.ram
    regs := s.regs
    inbox := s.inbox
    answers := s.answers
    draws := s.draws
    silent := s.silent
    trace := s.trace }

/-! ## Sessions (spec/43_session_commands.md) -/

/-- `discard_session()` and `abort_defl()` (R201, R234). The other session fields are not read while no session is
open; they stay (log 13). -/
def discardSession (s : State) : State := { s with sess := { s.sess with kind := .none }, infl := none }

/-- The session a BEGIN opens (R202, R213, R230). -/
def openSession (cfg : Config) (kind : SessionKind) (payload : List Byte) : Session where
  kind := kind
  base := wordAt payload 3
  total := wordAt payload 0
  nblocks := wordAt payload 1
  bsize := wordAt payload 2
  written := 0
  nextSeq := 0
  rcsum := cfg.csumSeed

/-- The checks of a BEGIN, in order; `region` is the bounds predicate of its target (R202, R213, R230). -/
def beginChecks (cfg : Config) (region : Nat → Nat → Bool) (payload : List Byte) : Option Failure :=
  if payload.length ≠ 16 then some .badDataLen
  else if (wordAt payload 2).toNat = 0 || cfg.maxWriteBlock < (wordAt payload 2).toNat then some .badBlocksize
  else if region (wordAt payload 3).toNat (wordAt payload 0).toNat then none
  else some .bounds

/-- FLASH_BEGIN's rule, shared with FLASH_DEFL_BEGIN (R202, R230): the checks, the erase, the new session with its
inflate state, the response. -/
def beginFlash (c : Opcode) (kind : SessionKind) (infl : Option Inflate) (payload : List Byte) (s : State) : State :=
  let s := discardSession s
  match beginChecks s.cfg (inFlash s.cfg) payload with
  | some f => fail c f s
  | none =>
    let range := eraseRange s.cfg (wordAt payload 3).toNat (wordAt payload 0).toNat
    (if 0 < range.2 then flashErase range.1 range.2 s else .ok () s).andThen fun _ s =>
      ack c { s with sess := openSession s.cfg kind payload, infl := infl }

/-- `data_checks(K)` (R205): the first check that fails, in order. -/
def dataChecks (kind : SessionKind) (value : Word) (payload : List Byte) (s : State) : Option Failure :=
  if payload.length < 16 || payload.length ≠ 16 + dataLen payload then some .badDataLen
  else if s.sess.kind ≠ kind then some .notInFlashMode
  else if s.sess.bsize.toNat < dataLen payload then some .badBlocksize
  else if dataSeq payload ≠ s.sess.nextSeq then some .sequence
  else if value ≠ (csum s.cfg.csumSeed (dataBytes payload)).setWidth 32 then some .badDataChecksum
  else if kind ≠ .defl && 0 < dataLen payload && s.sess.written = s.sess.total then some .tooMuchData
  else none

/-- `accept(n)` (R206, R208): the next sequence number, the bytes written, the running checksum over the whole data
field. -/
def accept (n : Nat) (data : List Byte) (s : State) : State :=
  { s with
    sess := { s.sess with
      nextSeq := s.sess.nextSeq + 1
      written := s.sess.written + BitVec.ofNat 32 n
      rcsum := s.sess.rcsum ^^^ xorBytes data } }

/-- `S.sess.written <- S.sess.written + n` alone (R232). -/
def advanceWritten (n : Nat) (s : State) : State :=
  { s with sess := { s.sess with written := s.sess.written + BitVec.ofNat 32 n } }

/-- `n = min(data_len, total − written)` (R207). -/
def trimmed (payload : List Byte) (s : State) : Nat := min (dataLen payload) s.sess.room

/-- `reboot()` (R212). -/
def reboot (s : State) : State := { record .resetReq s with mode := .rebooting }

/-- `finish(entry)` (R221). -/
def finish (entry : Word) (s : State) : State := { record (.execSignal entry) s with mode := .executed }

/-- FLASH_END's rule, shared with FLASH_DEFL_END (R209, R235). -/
def endFlash (c : Opcode) (kind : SessionKind) (payload : List Byte) (s : State) : State :=
  if payload.length ≠ 4 then fail c .badDataLen s
  else if s.sess.kind ≠ kind then fail c .notInFlashMode s
  else
    (respond c 0 [] (discardSession s)).andThen fun _ s => if wordAt payload 0 = 0 then reboot s else s

/-- MEM_END's rule, shared with MEM_FINISH (R220, R221). -/
def endMem (payload : List Byte) (s : State) : State :=
  if payload.length ≠ 8 then fail .memEnd .badDataLen s
  else if s.sess.kind ≠ .mem then fail .memEnd .notInFlashMode s
  else
    (respond .memEnd 0 [] (discardSession s)).andThen fun _ s =>
      if wordAt payload 0 = 0 then finish (wordAt payload 1) s else s

end Sys2Proof.Machine
end

