-- ==== Sys2Proof/Machine/SessionCommands.lean ====
section
/-! DEFINITION. SYNC and the session commands (spec/43_session_commands.md R200 to R237). Every command ends in a next
state: a failure is a response (R370), a fatal event the mode HALTED (R380). -/

namespace Sys2Proof.Machine

/-- SYNC (R200): the session and the frame buffer are dropped, `S.rxq` is kept; neither V nor the payload is read. -/
def execSync (_value : Word) (_payload : List Byte) (s : State) : Host.Outcome State Fault Refusal :=
  .next (ack .sync { discardSession s with fbuf := [] })

/-- FLASH_BEGIN (R202). -/
def execFlashBegin (_value : Word) (payload : List Byte) (s : State) : Host.Outcome State Fault Refusal :=
  .next (beginFlash .flashBegin .flash none payload s)

/-- FLASH_DATA (R204). A session that breaks R31 is the INVARIANT branch (R381, log 11). -/
def execFlashData (value : Word) (payload : List Byte) (s : State) : Host.Outcome State Fault Refusal :=
  .next <|
    match dataChecks .flash value payload s with
    | some f => fail .flashData f s
    | none =>
      if !s.sessionOk then raiseFatal .invariant s
      else
        let n := trimmed payload s
        (if 0 < n then flashWrite s.sess.writeAddr ((dataBytes payload).take n) s else .ok () s).andThen
          fun _ s => ack .flashData (accept n (dataBytes payload) s)

/-- FLASH_END (R209). -/
def execFlashEnd (_value : Word) (payload : List Byte) (s : State) : Host.Outcome State Fault Refusal :=
  .next (endFlash .flashEnd .flash payload s)

/-- MEM_BEGIN (R213): nothing is erased. -/
def execMemBegin (_value : Word) (payload : List Byte) (s : State) : Host.Outcome State Fault Refusal :=
  .next <|
    let s := discardSession s
    match beginChecks s.cfg (ramOk s.cfg) payload with
    | some f => fail .memBegin f s
    | none => ack .memBegin { s with sess := openSession s.cfg .mem payload }

/-- MEM_DATA (R215): `MemWrite` never answers `Fault`. -/
def execMemData (value : Word) (payload : List Byte) (s : State) : Host.Outcome State Fault Refusal :=
  .next <|
    match dataChecks .mem value payload s with
    | some f => fail .memData f s
    | none =>
      if !s.sessionOk then raiseFatal .invariant s
      else
        let n := trimmed payload s
        (if 0 < n then memWrite s.sess.writeAddr ((dataBytes payload).take n) s else .ok () s).andThen
          fun _ s => ack .memData (accept n (dataBytes payload) s)

/-- MEM_END (R220): `entry` is ignored when `no_exec ≠ 0`. -/
def execMemEnd (_value : Word) (payload : List Byte) (s : State) : Host.Outcome State Fault Refusal :=
  .next (endMem payload s)

/-- MEM_FINISH (R221): MEM_END with `no_exec = 0`, after whose response control goes to `entry`. -/
def execMemFinish (_value : Word) (payload : List Byte) (s : State) : Host.Outcome State Fault Refusal :=
  .next (endMem payload s)

/-- FLASH_DEFL_BEGIN (R230): FLASH_BEGIN's rule with a fresh inflater. -/
def execFlashDeflBegin (_value : Word) (payload : List Byte) (s : State) : Host.Outcome State Fault Refusal :=
  .next (beginFlash .flashDeflBegin .defl (some inflateInit) payload s)

/-- FLASH_DEFL_DATA after the inflater was fed (R232, R233): `out` is what it put out. -/
def writeInflated (data out : List Byte) (st : Inflate) (s : State) : State :=
  if s.sess.room < out.length then
    (if 0 < s.sess.room then flashWrite s.sess.writeAddr (out.take s.sess.room) s else .ok () s).andThen
      fun _ s => fail .flashDeflData .tooMuchData (discardSession s)
  else
    (if 0 < out.length then flashWrite s.sess.writeAddr out s else .ok () s).andThen fun _ s =>
      match st.status with
      | .error => fail .flashDeflData .inflateError (discardSession (advanceWritten out.length s))
      | _ => ack .flashDeflData (accept out.length data s)

/-- FLASH_DEFL_DATA (R232). The inflater is fed before the write (log 18). -/
def execFlashDeflData (value : Word) (payload : List Byte) (s : State) : Host.Outcome State Fault Refusal :=
  .next <|
    match dataChecks .defl value payload s with
    | some f => fail .flashDeflData f s
    | none =>
      if !s.sessionOk then raiseFatal .invariant s
      else
        match s.infl with
        | none => raiseFatal .invariant s
        | some st =>
          let fed := inflateFeed s.cfg.inflateWindow st (dataBytes payload)
          writeInflated (dataBytes payload) fed.1 fed.2 { s with infl := some fed.2 }

/-- FLASH_DEFL_END (R235): the stream need not be complete. -/
def execFlashDeflEnd (_value : Word) (payload : List Byte) (s : State) : Host.Outcome State Fault Refusal :=
  .next (endFlash .flashDeflEnd .defl payload s)

end Sys2Proof.Machine
end

