-- ==== Sys2Proof/Machine/SingleCommands.lean ====
section
/-! DEFINITION. The single-shot commands (spec/44_single_commands.md R250 to R276). None reads or writes the session
(spec/43_session_commands.md R237). -/

namespace Sys2Proof.Machine

/-- The stream READ_FLASH opens (R250, R252). -/
def openStream (payload : List Byte) : ReadStream where
  addr := wordAt payload 0
  len := wordAt payload 1
  pkt := wordAt payload 2
  inflight := wordAt payload 3
  sent := 0
  acked := 0
  md5 := md5Init

/-- READ_FLASH, the command (R250): the response precedes the data, which the stream steps of MainLoop.lean send. -/
def execReadFlash (_value : Word) (payload : List Byte) (s : State) : Host.Outcome State Fault Refusal :=
  .next <|
    if payload.length ≠ 16 then fail .readFlash .badDataLen s
    else if !inFlash s.cfg (wordAt payload 0).toNat (wordAt payload 1).toNat then fail .readFlash .bounds s
    else if (wordAt payload 2).toNat = 0 || s.cfg.readPktMax < (wordAt payload 2).toNat then
      fail .readFlash .badBlocksize s
    else if (wordAt payload 3).toNat = 0 then fail .readFlash .badBlocksize s
    else (respond .readFlash 0 [] s).andThen fun _ s => { s with rs := some (openStream payload), mode := .stream }

/-- ERASE_FLASH (R260). -/
def execEraseFlash (_value : Word) (payload : List Byte) (s : State) : Host.Outcome State Fault Refusal :=
  .next <|
    if payload.length ≠ 0 then fail .eraseFlash .badDataLen s
    else (flashEraseChip s).andThen fun _ s => ack .eraseFlash s

/-- ERASE_REGION (R262): an unaligned region is refused, not rounded. -/
def execEraseRegion (_value : Word) (payload : List Byte) (s : State) : Host.Outcome State Fault Refusal :=
  .next <|
    let offset := (wordAt payload 0).toNat
    let size := (wordAt payload 1).toNat
    if payload.length ≠ 8 then fail .eraseRegion .badDataLen s
    else if offset % s.cfg.sectorSize ≠ 0 || size % s.cfg.sectorSize ≠ 0 then fail .eraseRegion .bounds s
    else if !inFlash s.cfg offset size then fail .eraseRegion .bounds s
    else (if 0 < size then flashErase offset size s else .ok () s).andThen fun _ s => ack .eraseRegion s

/-- The reads of SPI_FLASH_MD5, `min(SECTOR_SIZE, remaining)` bytes each in ascending order (R265, R266). `fuel` bounds
the reads; the size is a bound, since SECTOR_SIZE is at least 1. -/
def digestFlash : Nat → Nat → Nat → Md5Context → State → PortResult Md5Context
  | 0, _, _, c, s => .ok c s
  | fuel + 1, a, left, c, s =>
    if left = 0 then .ok c s
    else
      (flashRead a (min s.cfg.sectorSize left) s).bind fun b s =>
        digestFlash fuel (a + min s.cfg.sectorSize left) (left - min s.cfg.sectorSize left) (md5Update c b) s

/-- SPI_FLASH_MD5 (R265): the digest is the body, the value is 0. -/
def execSpiFlashMd5 (_value : Word) (payload : List Byte) (s : State) : Host.Outcome State Fault Refusal :=
  .next <|
    let addr := (wordAt payload 0).toNat
    let size := (wordAt payload 1).toNat
    if payload.length ≠ 16 then fail .spiFlashMd5 .badDataLen s
    else if !inFlash s.cfg addr size then fail .spiFlashMd5 .bounds s
    else (digestFlash size addr size md5Init s).andThen fun c s =>
      (respond .spiFlashMd5 0 (md5Final c) s).done

/-- READ_REG (R270): the word read is the response's value. -/
def execReadReg (_value : Word) (payload : List Byte) (s : State) : Host.Outcome State Fault Refusal :=
  .next <|
    let addr := (wordAt payload 0).toNat
    if payload.length ≠ 4 then fail .readReg .badDataLen s
    else if !inRegs s.cfg addr then fail .readReg .bounds s
    else (regRead addr s).andThen fun v s => (respond .readReg v [] s).done

/-- `write_entry(j)` (R273): a mask of all ones writes directly, any other reads first; then the delay. -/
def writeEntry (e : RegEntry) (s : State) : PortResult Unit :=
  (if e.mask = 0xFFFFFFFF then regWrite e.addr.toNat e.value s
    else (regRead e.addr.toNat s).bind fun old s =>
      regWrite e.addr.toNat ((old &&& ~~~e.mask) ||| (e.value &&& e.mask)) s).bind fun _ s =>
  if e.delay = 0 then .ok () s else delay e.delay s

/-- The entries one after another (R272). -/
def writeEntries : List RegEntry → State → PortResult Unit
  | [], s => .ok () s
  | e :: es, s => (writeEntry e s).bind fun _ s => writeEntries es s

/-- WRITE_REG (R272): every entry is checked before any is written; they run in payload order. -/
def execWriteReg (_value : Word) (payload : List Byte) (s : State) : Host.Outcome State Fault Refusal :=
  .next <|
    if payload.length < 16 || payload.length % 16 ≠ 0 then fail .writeReg .badDataLen s
    else if !(regEntries payload).all (fun e => inRegs s.cfg e.addr.toNat) then fail .writeReg .bounds s
    else (writeEntries (regEntries payload) s).andThen fun _ s => ack .writeReg s

/-- CHANGE_BAUDRATE (R275): UART only; the rate changes after the response (R276). -/
def execChangeBaudrate (_value : Word) (payload : List Byte) (s : State) : Host.Outcome State Fault Refusal :=
  .next <|
    if payload.length ≠ 8 then fail .changeBaudrate .badDataLen s
    else if s.transport ≠ .uart then fail .changeBaudrate .cmdNotImplemented s
    else if wordAt payload 0 = 0 then fail .changeBaudrate .bounds s
    else (respond .changeBaudrate 0 [] s).andThen fun _ s => record (.baud (wordAt payload 0)) s

end Sys2Proof.Machine
end

