-- ==== Sys2Proof/Machine/Dispatch.lean ====
section
/-! DEFINITION. The command rule each request runs (spec/42_decoder.md R184; spec/30_encoding.md R96). -/

namespace Sys2Proof.Machine

def exec (i : Instr) (s : State) : Host.Outcome State Fault Refusal :=
  match i with
  | .sync value payload => Sys2Proof.Machine.execSync value payload s
  | .flashBegin value payload => Sys2Proof.Machine.execFlashBegin value payload s
  | .flashData value payload => Sys2Proof.Machine.execFlashData value payload s
  | .flashEnd value payload => Sys2Proof.Machine.execFlashEnd value payload s
  | .memBegin value payload => Sys2Proof.Machine.execMemBegin value payload s
  | .memData value payload => Sys2Proof.Machine.execMemData value payload s
  | .memEnd value payload => Sys2Proof.Machine.execMemEnd value payload s
  | .memFinish value payload => Sys2Proof.Machine.execMemFinish value payload s
  | .flashDeflBegin value payload => Sys2Proof.Machine.execFlashDeflBegin value payload s
  | .flashDeflData value payload => Sys2Proof.Machine.execFlashDeflData value payload s
  | .flashDeflEnd value payload => Sys2Proof.Machine.execFlashDeflEnd value payload s
  | .readFlash value payload => Sys2Proof.Machine.execReadFlash value payload s
  | .eraseFlash value payload => Sys2Proof.Machine.execEraseFlash value payload s
  | .eraseRegion value payload => Sys2Proof.Machine.execEraseRegion value payload s
  | .spiFlashMd5 value payload => Sys2Proof.Machine.execSpiFlashMd5 value payload s
  | .readReg value payload => Sys2Proof.Machine.execReadReg value payload s
  | .writeReg value payload => Sys2Proof.Machine.execWriteReg value payload s
  | .changeBaudrate value payload => Sys2Proof.Machine.execChangeBaudrate value payload s

end Sys2Proof.Machine
end

