-- ==== Sys2Proof/Machine/MainLoop.lean ====
section
/-! DEFINITION. MAIN's steps (spec/00_scope.md R16): the boot step, the decoder byte step with the handling of the
frame it delivers, and the READ_FLASH stream step; and where a request is placed to be the next one run. -/

namespace Sys2Proof.Machine

/-- The failure response of a frame that is no request, and nothing else; an empty frame gets none (R180 to R183,
R187, R192). -/
def rejectFrame (e : FrameReject) (s : State) : State :=
  match e with
  | .empty => s
  | .short op => raiseFail op .badDataLen s
  | .badDirection op => raiseFail op .invalidCommand s
  | .badLength op => raiseFail op .badDataLen s
  | .notImplemented op => raiseFail op .cmdNotImplemented s

/-- A frame delivered in mode CMD (R180, R184). -/
def commandFrame (f : List Byte) (s : State) : Host.Outcome State Fault Refusal :=
  match decode s.cfg.opcodes f with
  | .ok i => exec i s
  | .error e => .next (rejectFrame e s)

/-- `stream_end()` (R255). -/
def streamEnd (r : ReadStream) (s : State) : State :=
  (emit (md5Final r.md5) s).andThen fun _ s => { s with rs := none, mode := .cmd }

/-- A frame delivered in mode STREAM: an acknowledgement, or the early end of the stream (R254). -/
def ackFrame (f : List Byte) (r : ReadStream) (s : State) : State :=
  if f.length = 0 then s
  else if f.length = 4 && r.acked.toNat ≤ (le32 f 0).toNat && (le32 f 0).toNat ≤ r.sent.toNat then
    { s with rs := some { r with acked := le32 f 0 } }
  else streamEnd r s

/-- A delivered frame goes where the mode sends it (R159). -/
def deliver (f : List Byte) (s : State) : Host.Outcome State Fault Refusal :=
  match s.mode with
  | .stream =>
    match s.rs with
    | some r => .next (ackFrame f r s)
    | none => .next (raiseFatal .invariant s)
  | _ => commandFrame f s

/-- The decoder byte step (R136, R150): a pending overflow is fatal, an empty queue holds MAIN (log 9), else one byte
is popped and decoded, and a frame it completes is handled whole (R159). -/
def byteStep (s : State) : Host.Outcome State Fault Refusal :=
  if s.ovf then .next (raiseFatal .rxqOverflow s)
  else
    match s.rxq with
    | [] => .next s
    | x :: rest =>
      let q := slipByte s.cfg.frameCap s.dstate s.fbuf x
      let s := { s with rxq := rest, dstate := q.dstate, fbuf := q.fbuf }
      match q.delivered with
      | none => .next s
      | some f => deliver f s

/-- The next data frame of a stream (R253). The digest advances with `sent`, over whose bytes it is (R252), once the
frame has left; DESIGN CHOICE for a frame that never leaves (log 26). -/
def streamSend (r : ReadStream) (s : State) : State :=
  let n := min r.pkt.toNat (r.len.toNat - r.sent.toNat)
  (flashRead (r.addr.toNat + r.sent.toNat) n s).andThen fun b s =>
    (emit b s).andThen fun _ s =>
      { s with rs := some { r with md5 := md5Update r.md5 b, sent := r.sent + BitVec.ofNat 32 n } }

/-- The stream step (R253): end, send, or read an acknowledgement, in that order. A stream record that is absent or
breaks R252 is the INVARIANT branch (R381, log 11). -/
def streamStep (s : State) : Host.Outcome State Fault Refusal :=
  match s.rs with
  | none => .next (raiseFatal .invariant s)
  | some r =>
    if !r.ok s.cfg then .next (raiseFatal .invariant s)
    else if r.acked = r.len then .next (streamEnd r s)
    else if r.sent.toNat < r.len.toNat && r.sent.toNat - r.acked.toNat < r.inflight.toNat then
      .next (streamSend r s)
    else byteStep s

/-- The boot step (R402). -/
def bootStep (s : State) : State := (emit s.cfg.greeting s).andThen fun _ s => { s with mode := .cmd }

/-- One step of MAIN in its mode (R16, R28). -/
def modeStep (s : State) : Host.Outcome State Fault Refusal :=
  match s.mode with
  | .boot => .next (bootStep s)
  | .cmd => byteStep s
  | .stream => streamStep s
  | .halted => .fault (.halted s.fatal)
  | .executed => .refused .handedToTarget
  | .rebooting => .refused .awaitingReset

/-- A turn of MAIN: while it waits for an answer that never comes it is held, and not faulted (R64, R417; log 9). -/
def mainStep (s : State) : Host.Outcome State Fault Refusal :=
  match s.waiting with
  | some _ => .next s
  | none => modeStep s

/-- One event (R13): a turn of MAIN, an RX event, or the external reset. -/
def eventStep (e : Event) (s : State) : Host.Outcome State Fault Refusal :=
  match e with
  | .mainTurn => mainStep s
  | .rxByte x => isrStep [x] false s
  | .rxPacket b => isrStep b true s
  | .reset => .next (externalReset s)

/-- The state in which a packet is the next request MAIN runs: mode CMD, the packet's bytes in the frame buffer, its
closing delimiter at the head of the queue, no overflow pending, and MAIN's turn, with no answer outstanding (log 21). -/
def placePacket (p : List Byte) (s : State) : State :=
  { s with
    mode := .cmd
    dstate := .inFrame
    fbuf := p
    rxq := slipEnd :: s.rxq
    ovf := false
    waiting := none
    inbox := .mainTurn :: s.inbox }

end Sys2Proof.Machine
end

