-- ==== Sys2Proof/Machine/Step.lean ====
section
/-! DEFINITION. One step of the machine: the next event of the inbox, or a turn of MAIN when there is none (log 7); and
the state whose very next step runs a given request. -/

namespace Sys2Proof.Machine

/-- One step. The parameters are checked first, as R6 asks (log 23). -/
def step (s : State) : Host.Outcome State Fault Refusal :=
  if !s.cfg.ok then .refused .parametersRefused
  else
    match s.inbox with
    | [] => eventStep .mainTurn s
    | e :: rest => eventStep e { s with inbox := rest }

/-- `s` with the request whose low bits are w placed where the next step takes it (log 21). -/
def State.withFetchWord (s : State) (nbits w : Nat) : State := placePacket (tablePacket nbits w) s

end Sys2Proof.Machine
end

