-- ==== Sys2Proof/Safety.lean ====
section
/-! DEFINITION. What claims are stated in: the invariant of every step, what a port transaction may ask for, what a
frame sent by the engine looks like byte by byte, and when a command's checks pass. The checks and the packets are
written here a second time, from the spec, so that a claim does not lean on the meaning it is about. -/

namespace Sys2Proof.Machine

/-! ## The invariant -/

/-- "The engine sends no more than `max_inflight` bytes beyond the last acknowledgement plus one packet's overshoot"
(spec/70_reset_and_hazards.md R414). -/
def ReadStream.windowOk (r : ReadStream) : Prop :=
  r.sent.toNat < r.acked.toNat + r.inflight.toNat + r.pkt.toNat

/-- `S.rs` exists exactly in mode STREAM, and holds what R252 and R414 say. -/
def State.streamOk (s : State) : Prop :=
  match s.rs with
  | none => s.mode ≠ .stream
  | some r => s.mode = .stream ∧ r.ok s.cfg = true ∧ r.windowOk

/-- What holds of the machine at reset and after every step. -/
structure State.Inv (s : State) : Prop where
  /-- The parameters keep the constraints of R6. -/
  params : s.cfg.ok = true
  /-- The transport is the one chosen at reset (R35, R403). -/
  transport : s.transport = s.cfg.transport
  /-- The queue is no longer than its capacity (R22, R23). -/
  fifo : s.rxq.length ≤ s.cfg.rxqCap
  /-- The overflow flag is set exactly when an overflow was counted (R24, R25, R132). -/
  counted : s.ovf = true ↔ s.ovfCnt ≠ 0
  /-- The frame buffer is no longer than its capacity (R27). -/
  frame : s.fbuf.length ≤ s.cfg.frameCap
  /-- "It is empty whenever `S.dstate = HUNT`." (R27) -/
  hunt : s.dstate = .hunt → s.fbuf = []
  /-- Before the greeting nothing was decoded (R402). -/
  boot : s.mode = .boot → s.dstate = .hunt ∧ s.sess.kind = .none
  /-- The session invariants of R31. -/
  session : s.sessionOk = true
  /-- The stream state of R33, R252 and R414. -/
  stream : s.streamOk
  /-- The cause is kept exactly in mode HALTED (R34, R380). -/
  fatal : s.fatal ≠ .none ↔ s.mode = .halted
  /-- "In a model built from this spec, no rule reaches it." (R381) -/
  reached : s.fatal ≠ .invariant
  /-- While MAIN waits for an answer, nothing was asked or sent since, and the run has not ended (R64, R404). -/
  waiting : ∀ q, s.waiting = some q →
    s.trace.getLast? = some (.unanswered q) ∧ (s.mode = .boot ∨ s.mode = .cmd ∨ s.mode = .stream)
  /-- The flash is in canonical form and has FLASH_SIZE bytes (R61). -/
  flash : s.flash.wf = true ∧ s.flash.within s.cfg.flashSize = true
  /-- The target's RAM is in canonical form and has 2^32 bytes (R61). -/
  ram : s.ram.wf = true ∧ s.ram.within (2 ^ 32) = true
  /-- The registers are in canonical form, at 32-bit addresses (R61). -/
  regs : s.regs.wf = true ∧ s.regs.within (2 ^ 32) = true

/-! ## Frames the engine sends -/

/-- A success response with value 0 and no body (R87 to R89, R189). -/
def okPacket (op : Byte) : List Byte := [0x01, op, 0x02, 0x00, 0x00, 0x00, 0x00, 0x00, 0x00, 0x00]

/-- A failure response (R190, R373). -/
def failPacket (op code : Byte) : List Byte := [0x01, op, 0x02, 0x00, 0x00, 0x00, 0x00, 0x00, 0x01, code]

/-- A success response to `op` with any value and body, or a failure response to it (R189, R190). -/
def IsResponse (op : Byte) (p : List Byte) : Prop :=
  (∃ (value : Word) (body : List Byte),
      p = [0x01, op] ++ put16 (BitVec.ofNat 16 (body.length + 2)) ++ put32 value ++ body ++ [0x00, 0x00])
    ∨ ∃ code : Byte, p = failPacket op code

/-- The frame of a packet leaves on the TX port (R161). -/
def sent (p : List Byte) : PortEvent := .tx (slipEncode p)

/-- `s` after one more frame is sent, and nothing else. -/
def State.sending (s : State) (p : List Byte) : State := { s with trace := s.trace ++ [sent p] }

/-- `s` after the success response to a command is sent, and nothing else. -/
def State.acking (s : State) (c : Opcode) : State := s.sending (okPacket (s.cfg.opcodes.code c))

/-- `s` after the failure response to a command is sent, and nothing else (R373, R379). -/
def State.failing (s : State) (c : Opcode) (f : Failure) : State :=
  s.sending (failPacket (s.cfg.opcodes.code c) (f.code s.cfg.errs))

/-! ## Events -/

/-- The event is a frame sent. -/
def PortEvent.isTx : PortEvent → Bool
  | .tx _ => true
  | _ => false

/-- The event is a signal of the OUT port (R64). -/
def PortEvent.isSignal : PortEvent → Bool
  | .resetReq => true
  | .execSignal _ => true
  | .baud _ => true
  | .fatalSignal _ => true
  | _ => false

/-- The event is a transaction on the FLASH, MEM, REG or TIME port, with its answer (R64). -/
def PortEvent.isTransaction (e : PortEvent) : Bool :=
  match e with
  | .unanswered _ => false
  | _ => !e.isTx && !e.isSignal

/-- [a, a+n) lies in the region the open session declared (R30, R66). -/
def Session.covers (q : Session) (a n : Nat) : Prop :=
  q.base.toNat ≤ a ∧ a + n ≤ q.base.toNat + q.total.toNat

/-- What the spec lets the engine ask a port for, in state `s`: erases aligned and in the flash (R261), writes inside
the open session's region (R31, R66), reads in the flash (R60) answered with as many bytes as were asked for (R64),
register accesses inside REG_ALLOW (R63, R271). -/
def PortRequest.allowed (s : State) : PortRequest → Prop
  | .flashErase a n => 0 < n ∧ a % s.cfg.sectorSize = 0 ∧ n % s.cfg.sectorSize = 0 ∧ a + n ≤ s.cfg.flashSize
  | .flashEraseChip => True
  | .flashWrite a b =>
    0 < b.length ∧ (s.sess.kind = .flash ∨ s.sess.kind = .defl) ∧ s.sess.covers a b.length
      ∧ a + b.length ≤ s.cfg.flashSize
  | .flashRead a n => 0 < n ∧ a + n ≤ s.cfg.flashSize
  | .memWrite a b => 0 < b.length ∧ s.sess.kind = .mem ∧ s.sess.covers a b.length
  | .regRead a => inRegs s.cfg a = true
  | .regWrite a _ => inRegs s.cfg a = true
  | .delay us => us ≠ 0
  | .tx _ => True

/-- The event is a request the spec allows, with an answer of the shape R64 gives or without one; or a signal: a baud
rate only on the UART and never 0 (R275), and of the fatal causes RXQ_OVERFLOW or FLASH_FAULT (R34, R381). -/
def PortEvent.allowed (s : State) : PortEvent → Prop
  | .flashErase a n _ => (PortRequest.flashErase a n).allowed s
  | .flashEraseChip _ => PortRequest.flashEraseChip.allowed s
  | .flashWrite a b _ => (PortRequest.flashWrite a b).allowed s
  | .flashRead a n answer => (PortRequest.flashRead a n).allowed s ∧ ∀ b, answer = some b → b.length = n
  | .memWrite a b => (PortRequest.memWrite a b).allowed s
  | .regRead a _ => (PortRequest.regRead a).allowed s
  | .regWrite a v => (PortRequest.regWrite a v).allowed s
  | .delay us => (PortRequest.delay us).allowed s
  | .tx b => (PortRequest.tx b).allowed s
  | .resetReq => True
  | .execSignal _ => True
  | .baud rate => rate ≠ 0 ∧ s.transport = .uart
  | .fatalSignal code => code = 1 ∨ code = 2
  | .unanswered q => q.allowed s

/-- The answer the ports give to draw number j from now: scripted, or the free value (log 3). -/
def answerAt (s : State) (j : Nat) : Answer :=
  match s.answers[j]? with
  | some a => a
  | none => Config.freeAnswer (s.draws + j)

/-- The next k transactions are ones that their ports answer (log 26). -/
def State.portsAnswer (s : State) (k : Nat) : Prop := ∀ j, j < k → s.trace.length + j ∉ s.silent

/-! ## A frame that is about to end -/

/-- MAIN's turn is next, and MAIN does not wait for an answer. -/
def State.mainNext (s : State) : Prop :=
  (s.inbox.head? = none ∨ s.inbox.head? = some .mainTurn) ∧ s.waiting = none

/-- The parameters are sound, it is MAIN's turn, and the next byte is the delimiter that ends the frame `f`. -/
structure State.AtFrameEnd (s : State) (f rest : List Byte) : Prop where
  params : s.cfg.ok = true
  main : s.mainNext
  ovf : s.ovf = false
  dstate : s.dstate = .inFrame
  fbuf : s.fbuf = f
  rxq : s.rxq = slipEnd :: rest

/-- The stream reads: not everything is acknowledged, and nothing can be sent, so the next step takes a byte (R253). -/
structure ReadStream.Reads (r : ReadStream) (s : State) : Prop where
  mode : s.mode = .stream
  stream : s.rs = some r
  ok : r.ok s.cfg = true
  unfinished : r.acked ≠ r.len
  waiting : ¬(r.sent.toNat < r.len.toNat ∧ r.sent.toNat - r.acked.toNat < r.inflight.toNat)

/-- MAIN's next step is a decoder byte step: mode CMD, or a stream that reads (R150, R253). -/
def State.Decodes (s : State) : Prop := s.mode = .cmd ∨ ∃ r : ReadStream, r.Reads s

/-- `s` after that delimiter is taken (R153), with nothing done about the frame yet. -/
def State.afterFrame (s : State) (rest : List Byte) : State :=
  { s with inbox := s.inbox.tail, rxq := rest, dstate := .inFrame, fbuf := [] }

/-! ## When a command's checks pass -/

/-- The payload of a data command has the shape of R205 check 1. -/
def DataShape (payload : List Byte) : Prop :=
  16 ≤ payload.length ∧ payload.length = 16 + (wordAt payload 0).toNat

/-- `i` is the data command of sessions of this kind, with this opcode (R205). -/
def IsDataCommand (i : Instr) (value : Word) (payload : List Byte) (kind : SessionKind) (c : Opcode) : Prop :=
  (i = .flashData value payload ∧ kind = .flash ∧ c = .flashData)
    ∨ (i = .memData value payload ∧ kind = .mem ∧ c = .memData)
    ∨ (i = .flashDeflData value payload ∧ kind = .defl ∧ c = .flashDeflData)

/-- The checks of R205 all pass. -/
structure DataAccepted (kind : SessionKind) (value : Word) (payload : List Byte) (s : State) : Prop where
  shape : DataShape payload
  session : s.sess.kind = kind
  size : (wordAt payload 0).toNat ≤ s.sess.bsize.toNat
  order : wordAt payload 1 = s.sess.nextSeq
  checksum : value = (csum s.cfg.csumSeed (dataBytes payload)).setWidth 32
  room : kind ≠ .defl → (wordAt payload 0).toNat ≠ 0 → s.sess.written ≠ s.sess.total

/-- How many bytes of the data R207 writes. -/
def writtenLen (payload : List Byte) (s : State) : Nat :=
  min (wordAt payload 0).toNat (s.sess.total.toNat - s.sess.written.toNat)

/-- Where they go (R66). -/
def writtenAt (s : State) : Nat := s.sess.base.toNat + s.sess.written.toNat

/-- The session after a data command that wrote n bytes (R206, R208). -/
def Session.advanced (q : Session) (n : Nat) (data : List Byte) : Session :=
  { q with
    nextSeq := q.nextSeq + 1
    written := q.written + BitVec.ofNat 32 n
    rcsum := q.rcsum ^^^ xorBytes data }

/-- The checks of a BEGIN all pass, for the bounds predicate of its target (R202, R213, R230). -/
structure BeginAccepted (region : Nat → Nat → Prop) (payload : List Byte) (s : State) : Prop where
  shape : payload.length = 16
  block : 1 ≤ (wordAt payload 2).toNat ∧ (wordAt payload 2).toNat ≤ s.cfg.maxWriteBlock
  region : region (wordAt payload 3).toNat (wordAt payload 0).toNat

/-- A session as a BEGIN opens it (R202, R213, R230). -/
def openedSession (kind : SessionKind) (payload : List Byte) (s : State) : Session :=
  { kind := kind, base := wordAt payload 3, total := wordAt payload 0, nblocks := wordAt payload 1,
    bsize := wordAt payload 2, written := 0, nextSeq := 0, rcsum := s.cfg.csumSeed }

/-- [a, a+n) lies in the flash: `InFlash` of R60. -/
def InFlash (s : State) (a n : Nat) : Prop := a + n ≤ s.cfg.flashSize

/-- The range a FLASH_BEGIN erases: start and length (R203). -/
def beginErase (payload : List Byte) (s : State) : Nat × Nat :=
  eraseRange s.cfg (wordAt payload 3).toNat (wordAt payload 0).toNat

/-- What a WRITE_REG does from entry `j` on, with `n` entries to go, when the registers hold `regs` and `k` answers
were drawn: the registers, how many answers were drawn in all, and the transactions in order (R272, R273). -/
def registerWrites (s : State) (payload : List Byte) :
    Nat → Nat → Store 32 0 → Nat → Store 32 0 × Nat × List PortEvent
  | 0, _, regs, k => (regs, k, [])
  | n + 1, j, regs, k =>
    let a := (wordAt payload (4 * j)).toNat
    let value := wordAt payload (4 * j + 1)
    let mask := wordAt payload (4 * j + 2)
    let wait := wordAt payload (4 * j + 3)
    let masked := mask ≠ 0xFFFFFFFF
    let old := match answerAt s k with
      | .word x => x
      | _ => regs.read a
    let new := if masked then (old &&& ~~~mask) ||| (value &&& mask) else value
    let (regs', k', events) :=
      registerWrites s payload n (j + 1) (regs.write a new) (if masked then k + 1 else k)
    (regs', k', (if masked then [.regRead a old] else []) ++ [.regWrite a new]
      ++ (if wait = 0 then [] else [.delay wait]) ++ events)

/-! ## Commands in a row -/

/-- The payload of `FLASH_DATA(seq, d)` (R99). -/
def dataPayload (seq : Nat) (d : List Byte) : List Byte :=
  put32 (BitVec.ofNat 32 d.length) ++ put32 (BitVec.ofNat 32 seq) ++ put32 0 ++ put32 0 ++ d

/-- `FLASH_DATA(seq, d)` for each block, numbered from `seq` on (R99, R206). -/
def flashBlocks (seed : Byte) : Nat → List (List Byte) → List Instr
  | _, [] => []
  | seq, d :: ds => .flashData ((csum seed d).setWidth 32) (dataPayload seq d) :: flashBlocks seed (seq + 1) ds

/-- The meanings of a list of commands, one after another, with nothing between them. -/
def execAll : List Instr → State → Host.Outcome State Fault Refusal
  | [], s => .next s
  | i :: is, s =>
    match exec i s with
    | .next t => execAll is t
    | .fault r => .fault r
    | .refused r => .refused r

end Sys2Proof.Machine
end

