-- ==== Sys2Proof/Certificates/Slice0/Obligations.lean ====
section
/-! DEFINITION. The statements for the provers. Each docstring names the rules of spec/ that the statement formalises,
and says which clauses are the model's choice. A statement about a FLASH or REG answer holds for whatever answer comes
next, scripted or free. The hypothesis `portsAnswer` says that the ports answer at all (R64; log 26): what happens where
one does not is stated under "Ports that never answer". -/

open Sys2Proof Sys2Proof.Machine

/-! ## Requests and their bytes -/

/-- R83, R84, R96: every packet made from a well-formed request is read back as that request, whatever opcode numbers
the parameters give, as long as no two commands share one. -/
def Obligations.DecodeOfEncode : Prop :=
  ∀ (m : OpcodeMap) (i : Instr), m.distinct → i.wf = true → decode m (encode m i) = .ok i

/-- R83, R84, R96: a frame that is read as a request is the one packet of that request: no byte of it is dropped. -/
def Obligations.EncodeOfDecode : Prop :=
  ∀ (m : OpcodeMap) (f : List Byte) (i : Instr), decode m f = .ok i → i.wf = true ∧ encode m i = f

/-- R98, R202, R204, R213, R220, R221, R260, R270: packets that the spec writes out are read as the requests they
stand for; and 239 opcode bytes are in no row of R96 (R97). -/
def Obligations.DecodeReadsWrittenPackets : Prop :=
  decode defaultOpcodes [0x00, 0x04, 0x04, 0x00, 0, 0, 0, 0, 0x01, 0x00, 0x00, 0x00]
      = .ok (.flashEnd 0 [0x01, 0x00, 0x00, 0x00])
    ∧ decode defaultOpcodes ([0x00, 0x03, 0x14, 0x00, 0xEB, 0, 0, 0] ++ [0x04, 0, 0, 0, 0, 0, 0, 0]
        ++ [0, 0, 0, 0, 0, 0, 0, 0] ++ [0x01, 0x02, 0x03, 0x04])
      = .ok (.flashData 0xEB ([0x04, 0, 0, 0, 0, 0, 0, 0] ++ [0, 0, 0, 0, 0, 0, 0, 0] ++ [0x01, 0x02, 0x03, 0x04]))
    ∧ decode defaultOpcodes [0x00, 0x06, 0x08, 0x00, 0, 0, 0, 0, 0x01, 0, 0, 0, 0, 0, 0, 0]
      = .ok (.memEnd 0 [0x01, 0, 0, 0, 0, 0, 0, 0])
    ∧ decode defaultOpcodes [0x00, 0x06, 0x08, 0x00, 0, 0, 0, 0, 0x00, 0, 0, 0, 0x04, 0x00, 0xFE, 0x3F]
      = .ok (.memFinish 0 [0x00, 0, 0, 0, 0x04, 0x00, 0xFE, 0x3F])
    ∧ decode defaultOpcodes [0x00, 0xD0, 0x00, 0x00, 0, 0, 0, 0] = .ok (.eraseFlash 0 [])
    ∧ decode defaultOpcodes [0x00, 0x0A, 0x04, 0x00, 0, 0, 0, 0, 0x04, 0x00, 0x00, 0x60]
      = .ok (.readReg 0 [0x04, 0x00, 0x00, 0x60])
    ∧ ((List.range 256).filter fun n => (defaultOpcodes.find (BitVec.ofNat 8 n)).isNone).length = 239

/-- R150, R153, R159, R184: when the byte that ends a frame is the next one and the frame is a request, one step is
the meaning of that request, in the state the decoder left (log 8). -/
def Obligations.StepRunsDecodedInstruction : Prop :=
  ∀ (s : State) (f rest : List Byte) (i : Instr),
    s.AtFrameEnd f rest → s.mode = .cmd → decode s.cfg.opcodes f = .ok i →
      step s = exec i (s.afterFrame rest)

/-- R81, R150 to R156, R159, R162, R184: the bytes of a request on the wire run that request. One step takes one
byte; the last one is the meaning of the request. -/
def Obligations.RequestOnTheWireIsRun : Prop :=
  ∀ (s : State) (i : Instr) (rest : List Byte),
    s.cfg.ok = true → s.inbox = [] → s.waiting = none → s.mode = .cmd → s.ovf = false → s.dstate ≠ .escape → s.fbuf = [] →
    i.wf = true → s.cfg.opcodes.distinct → (encode s.cfg.opcodes i).length ≤ s.cfg.frameCap →
    s.rxq = slipEncode (encode s.cfg.opcodes i) ++ rest →
      Host.Core.run Sys2Proof.core (slipEncode (encode s.cfg.opcodes i)).length s
        = exec i { s with rxq := rest, dstate := .inFrame }

/-! ## Frames that are no requests -/

/-- R181, R182, R183: a short frame, a bad direction and a length that does not match get one failure response each,
and change nothing else. -/
def Obligations.MalformedPacketsGetOneFailure : Prop :=
  ∀ (s : State) (f rest : List Byte), s.AtFrameEnd f rest → s.mode = .cmd → s.portsAnswer 1 →
    (1 ≤ f.length → f.length ≤ 7 →
      step s = .next ((s.afterFrame rest).sending
        (failPacket (if 2 ≤ f.length then byteAt f 1 else 0x00) s.cfg.errs.badDataLen)))
    ∧ (8 ≤ f.length → byteAt f 0 ≠ 0x00 →
        step s = .next ((s.afterFrame rest).sending (failPacket (byteAt f 1) s.cfg.errs.invalidCommand)))
    ∧ (8 ≤ f.length → byteAt f 0 = 0x00 → f.length ≠ 8 + (le16 f 2).toNat →
        step s = .next ((s.afterFrame rest).sending (failPacket (byteAt f 1) s.cfg.errs.badDataLen)))

/-- R187: a well-formed packet with an opcode of no command gets one failure response, and changes nothing else. -/
def Obligations.UnimplementedOpcodeGetsOneFailure : Prop :=
  ∀ (s : State) (f rest : List Byte), s.AtFrameEnd f rest → s.mode = .cmd → s.portsAnswer 1 →
    8 ≤ f.length → byteAt f 0 = 0x00 → f.length = 8 + (le16 f 2).toNat →
    (∀ c : Opcode, s.cfg.opcodes.code c ≠ byteAt f 1) →
      step s = .next ((s.afterFrame rest).sending (failPacket (byteAt f 1) s.cfg.errs.cmdNotImplemented))

/-- R152, R180: in mode CMD an empty frame is ignored without a response. -/
def Obligations.EmptyFrameIsIgnored : Prop :=
  ∀ (s : State) (rest : List Byte), s.AtFrameEnd [] rest → s.mode = .cmd → step s = .next (s.afterFrame rest)

/-! ## The SLIP codec -/

/-- R162: the decoder reads back what the encoder wrote, from HUNT and from IN_FRAME with an empty buffer. -/
def Obligations.SlipDecodesWhatItEncodes : Prop :=
  ∀ (cap : Nat) (p : List Byte),
    (1 ≤ p.length → p.length ≤ cap →
      slipDecode cap .hunt [] (slipEncode p) = (.inFrame, [], [p])
        ∧ slipDecode cap .inFrame [] (slipEncode p) = (.inFrame, [], [[], p]))
    ∧ slipDecode cap .hunt [] (slipEncode []) = (.inFrame, [], [[]])

/-- R82, R163: in an encoded frame the delimiter stands first and last and nowhere else, each escape byte is followed
by 0xDC or 0xDD, and the length is that of the packet plus two plus one for each byte escaped. -/
def Obligations.EncodedFrameHasNoRawDelimiter : Prop :=
  ∀ (p : List Byte) (k : Nat),
    ((slipEncode p)[k]? = some 0xC0 ↔ k = 0 ∨ k + 1 = (slipEncode p).length)
    ∧ ((slipEncode p)[k]? = some 0xDB →
        (slipEncode p)[k + 1]? = some 0xDC ∨ (slipEncode p)[k + 1]? = some 0xDD)
    ∧ (slipEncode p).length = p.length + 2 + (p.filter fun x => x == 0xC0 || x == 0xDB).length

/-- R164: whatever the decoder was doing, one delimiter brings it to IN_FRAME, and the next well-formed frame is
delivered, last of all frames. -/
def Obligations.DecoderResynchronises : Prop :=
  ∀ (cap : Nat) (d : DecoderState) (fbuf p : List Byte),
    (slipDecode cap d fbuf [0xC0]).1 = .inFrame
    ∧ (1 ≤ p.length → p.length ≤ cap →
        (slipDecode cap d fbuf (0xC0 :: slipEncode p)).1 = .inFrame
        ∧ (slipDecode cap d fbuf (0xC0 :: slipEncode p)).2.1 = []
        ∧ (slipDecode cap d fbuf (0xC0 :: slipEncode p)).2.2.getLast? = some p)

/-- R155 to R158, R165: a frame over capacity, an escape before a delimiter and an escape before any byte but 0xDC and
0xDD are dropped in one step, with no response; only the byte taken, `S.dstate` and `S.fbuf` change. -/
def Obligations.MalformedFrameIsDiscarded : Prop :=
  ∀ (s : State) (x : Byte) (rest : List Byte),
    s.cfg.ok = true → s.mainNext → s.Decodes → s.ovf = false → s.rxq = x :: rest →
    ((s.dstate = .inFrame ∧ x ≠ 0xC0 ∧ x ≠ 0xDB ∧ s.cfg.frameCap ≤ s.fbuf.length)
        ∨ (s.dstate = .escape ∧ (x = 0xDC ∨ x = 0xDD) ∧ s.cfg.frameCap ≤ s.fbuf.length)
        ∨ (s.dstate = .escape ∧ x ≠ 0xC0 ∧ x ≠ 0xDC ∧ x ≠ 0xDD) →
      step s = .next { s with inbox := s.inbox.tail, rxq := rest, dstate := .hunt, fbuf := [] })
    ∧ (s.dstate = .escape ∧ x = 0xC0 →
        step s = .next { s with inbox := s.inbox.tail, rxq := rest, dstate := .inFrame, fbuf := [] })

/-! ## The receive FIFO -/

/-- R130, R131, R132: a byte on the UART, or a whole packet on USB, goes to the end of the queue if it fits; if not,
nothing is queued, the flag is set, and the counter counts up to 2^32 − 1. -/
def Obligations.ReceiveQueuesOrCountsOverflow : Prop :=
  ∀ (s : State) (e : Event) (b : List Byte) (es : List Event),
    s.cfg.ok = true → s.inbox = e :: es →
    ((∃ x, e = .rxByte x ∧ b = [x] ∧ s.transport = .uart)
      ∨ (e = .rxPacket b ∧ s.transport ≠ .uart ∧ 1 ≤ b.length ∧ b.length ≤ s.cfg.usbPktMax)) →
    (s.rxq.length + b.length ≤ s.cfg.rxqCap → step s = .next { s with inbox := es, rxq := s.rxq ++ b })
    ∧ (s.cfg.rxqCap < s.rxq.length + b.length →
        step s = .next { s with
          inbox := es
          ovf := true
          ovfCnt := BitVec.ofNat 32 (min (s.ovfCnt.toNat + 1) (2 ^ 32 - 1)) })

/-- R70, R137: an RX event writes the queue, the flag and the counter and nothing else, and keeps the queued bytes. -/
def Obligations.ReceiveIsConfined : Prop :=
  ∀ (s t : State) (e : Event) (es : List Event),
    s.inbox = e :: es → ((∃ x, e = .rxByte x) ∨ ∃ b, e = .rxPacket b) → step s = .next t →
      t = { s with inbox := es, rxq := t.rxq, ovf := t.ovf, ovfCnt := t.ovfCnt } ∧ s.rxq <+: t.rxq

/-- R137, R138, R377: bytes that arrive while a command runs change nothing about what it does, and are queued as if
they had come after it. So it makes no difference that the model has RX events between steps only (log 7). -/
def Obligations.ReceiveCommutesWithCommands : Prop :=
  ∀ (i : Instr) (s : State) (b : List Byte),
    ∃ t, exec i s = .next t ∧ exec i (pushBytes b s) = .next (pushBytes b t)

/-- R34, R136, R380, R381, R382: a pending overflow is fatal at the next decode attempt, before any byte is taken and
whatever the decoder was doing, in mode CMD and where a stream reads; nothing is sent. That `S.rs` is none afterwards
is log 12's reading of R33 and R252. -/
def Obligations.PendingOverflowHalts : Prop :=
  ∀ (s : State), s.cfg.ok = true → s.mainNext → s.Decodes → s.ovf = true →
    step s = .next { s with
      inbox := s.inbox.tail
      fatal := .rxqOverflow
      mode := .halted
      rs := none
      trace := s.trace ++ [.fatalSignal 1] }

/-- R134: with nothing queued MAIN is held and not faulted. That the hold is a step to the same state is the model's
choice (log 9). -/
def Obligations.EmptyQueueHoldsMain : Prop :=
  ∀ (s : State), s.cfg.ok = true → s.mainNext → s.Decodes → s.ovf = false → s.rxq = [] →
    step s = .next { s with inbox := s.inbox.tail }

/-- R24, R25: no step clears the overflow flag or lowers its counter, but the external reset. -/
def Obligations.OverflowIsSticky : Prop :=
  ∀ (s t : State), step s = .next t → s.inbox.head? ≠ some .reset →
    (s.ovf = true → t.ovf = true) ∧ s.ovfCnt.toNat ≤ t.ovfCnt.toNat

/-! ## Boot, reset and the ends of a run -/

/-- R94, R402: the first step sends one frame, the parameter GREETING, and opens mode CMD; by default the greeting is
the four bytes "OHAI". -/
def Obligations.BootSendsGreeting : Prop :=
  (∀ (s : State), s.cfg.ok = true → s.mainNext → s.mode = .boot → s.portsAnswer 1 →
    step s = .next { s with inbox := s.inbox.tail, mode := .cmd, trace := s.trace ++ [sent s.cfg.greeting] })
  ∧ State.reset.cfg.greeting = [0x4F, 0x48, 0x41, 0x49]

/-- R400: at reset every field of R22 takes its reset value, in any mode, and the flash, the target's RAM and its
registers are as they were; and State.reset, the model's start, has these values too. -/
def Obligations.ResetGivesResetState : Prop :=
  (∀ (s : State) (es : List Event), s.cfg.ok = true → s.inbox = .reset :: es →
    ∃ t, step s = .next t ∧ t.rxq = [] ∧ t.ovf = false ∧ t.ovfCnt = 0 ∧ t.dstate = .hunt ∧ t.fbuf = []
      ∧ t.mode = .boot
      ∧ t.sess = { kind := .none, base := 0, total := 0, nblocks := 0, bsize := 0, written := 0, nextSeq := 0,
                   rcsum := 0 }
      ∧ t.infl = none ∧ t.rs = none ∧ t.fatal = .none ∧ t.transport = s.cfg.transport
      ∧ t.waiting = none
      ∧ t.flash = s.flash ∧ t.ram = s.ram ∧ t.regs = s.regs)
  ∧ State.reset.rxq = [] ∧ State.reset.ovf = false ∧ State.reset.ovfCnt = 0 ∧ State.reset.dstate = .hunt
  ∧ State.reset.fbuf = [] ∧ State.reset.mode = .boot
  ∧ State.reset.sess = { kind := .none, base := 0, total := 0, nblocks := 0, bsize := 0, written := 0,
                         nextSeq := 0, rcsum := 0 }
  ∧ State.reset.infl = none ∧ State.reset.rs = none ∧ State.reset.fatal = .none
  ∧ State.reset.transport = State.reset.cfg.transport ∧ State.reset.waiting = none

/-- R28, R139, R383: a terminal mode is left by the external reset and by nothing else; until then only the queue and
its overflow fields move. -/
def Obligations.TerminalModesAreFinal : Prop :=
  ∀ (s t : State), s.mode = .halted ∨ s.mode = .executed ∨ s.mode = .rebooting → step s = .next t →
    s.inbox.head? ≠ some .reset →
      t = { s with inbox := s.inbox.tail, rxq := t.rxq, ovf := t.ovf, ovfCnt := t.ovfCnt }

/-- R28, R404: MAIN has no step in a terminal mode: HALTED is a fault end, the others hand control away. That the ends
are this fault and these refusals is the model's choice (log 10). -/
def Obligations.TerminalModesStopMain : Prop :=
  ∀ (s : State), s.cfg.ok = true → s.mainNext →
    (s.mode = .halted → step s = .fault (.halted s.fatal))
    ∧ (s.mode = .executed → step s = .refused .handedToTarget)
    ∧ (s.mode = .rebooting → step s = .refused .awaitingReset)

/-! ## The whole machine -/

/-- R400 and the model's reset values (log 1, log 4 to log 6): the machine right after reset keeps the invariant. -/
def Obligations.InvariantAtReset : Prop := State.reset.Inv

/-- R22, R23, R24, R25, R27, R31, R33, R34, R35, R61, R252, R381, R414: every step keeps the invariant; in particular
no step reaches the cause INVARIANT. -/
def Obligations.StepKeepsInvariant : Prop :=
  ∀ (s t : State), s.Inv → step s = .next t → t.Inv

/-- R31, R60, R63, R64, R66, R261, R271, R275: whatever a step does, every request it makes of a port is one the spec
lets the engine make. -/
def Obligations.PortRequestsAreAllowed : Prop :=
  ∀ (s t : State), s.Inv → step s = .next t →
    ∃ es, t.trace = s.trace ++ es ∧ ∀ e ∈ es, e.allowed s

/-- R31, R60, R63, R66, R271: no step changes a register outside REG_ALLOW, a byte of RAM outside the open RAM
session's region, or a byte beyond the end of the flash; nor the parameters or the transport (R35). -/
def Obligations.ForeignStorageIsUntouched : Prop :=
  ∀ (s t : State), s.Inv → step s = .next t →
    t.cfg = s.cfg ∧ t.transport = s.transport
    ∧ (∀ a, inRegs s.cfg a = false → t.regs.read a = s.regs.read a)
    ∧ (∀ a, ¬(s.sess.kind = .mem ∧ s.sess.covers a 1) → t.ram.read a = s.ram.read a)
    ∧ ∀ a, s.cfg.flashSize ≤ a → t.flash.read a = s.flash.read a

/-- R34, R64, R71, R191, R193, R370, R382: every command ends in a next state. Unless it ends in HALTED or waits for an
answer without end, it sends exactly one frame, a response that echoes its opcode: after every port transaction of the
command, and before its signals. If it ends in HALTED it sends no frame, and its last output is the FATAL signal with
the cause's code. If it waits, no frame was sent before the transaction it waits for, and nothing came after it. -/
def Obligations.ExactlyOneResponse : Prop :=
  ∀ (i : Instr) (s : State), s.mode ≠ .halted → s.waiting = none →
    ∃ t es, exec i s = .next t ∧ t.trace = s.trace ++ es ∧
      if t.mode = .halted then (∀ e ∈ es, e.isTx = false) ∧ es.getLast? = some (.fatalSignal t.fatal.code)
      else if t.waiting.isSome then ∃ before q, es = before ++ [.unanswered q] ∧ t.waiting = some q
        ∧ ∀ e ∈ before, e.isTransaction = true
      else ∃ before p after, es = before ++ [sent p] ++ after ∧ (∀ e ∈ before, e.isTransaction = true)
        ∧ (∀ e ∈ after, e.isSignal = true) ∧ IsResponse (s.cfg.opcodes.code i.opcode) p

/-- R34, R380, R381, R382: a FLASH transaction that answers `Fault` halts the engine, in every command that issues one,
whichever read of an SPI_FLASH_MD5 it is, and in the stream: no frame is sent and nothing else is asked of a port. That
the flash is as it was after the fault is the model's choice (log 4). -/
def Obligations.FlashFaultHalts : Prop :=
  ∀ (s : State),
    (∀ v p, p.length = 16 → InFlash s (wordAt p 0).toNat (wordAt p 1).toNat →
      let addr := (wordAt p 0).toNat
      let size := (wordAt p 1).toNat
      let sector := s.cfg.sectorSize
      let at' (j : Nat) := addr + j * sector
      let len (j : Nat) := min sector (size - j * sector)
      ∀ j, j < (size + sector - 1) / sector → (∀ k, k < j → answerAt s k ≠ .fault) → answerAt s j = .fault →
        s.portsAnswer (j + 1) →
        ∃ t, exec (.spiFlashMd5 v p) s = .next t ∧ t.mode = .halted ∧ t.fatal = .flashFault ∧ t.flash = s.flash
          ∧ t.trace = s.trace
              ++ ((List.range j).map fun k =>
                    .flashRead (at' k) (len k) (some (answerBytes s (at' k) (len k) (answerAt s k))))
              ++ [.flashRead (at' j) (len j) none, .fatalSignal 2])
    ∧ (nextAnswer s = .fault → s.portsAnswer 1 →
    (∀ v p, BeginAccepted (InFlash s) p s → 0 < (beginErase p s).2 →
      ∃ t, exec (.flashBegin v p) s = .next t ∧ t.mode = .halted ∧ t.fatal = .flashFault ∧ t.flash = s.flash
        ∧ t.trace = s.trace
            ++ [.flashErase (beginErase p s).1 (beginErase p s).2 false, .fatalSignal 2])
    ∧ (∀ v p, BeginAccepted (InFlash s) p s → 0 < (beginErase p s).2 →
      ∃ t, exec (.flashDeflBegin v p) s = .next t ∧ t.mode = .halted ∧ t.fatal = .flashFault ∧ t.flash = s.flash
        ∧ t.trace = s.trace
            ++ [.flashErase (beginErase p s).1 (beginErase p s).2 false, .fatalSignal 2])
    ∧ (∀ v p, DataAccepted .flash v p s → s.sessionOk = true → 0 < writtenLen p s →
      ∃ t, exec (.flashData v p) s = .next t ∧ t.mode = .halted ∧ t.fatal = .flashFault ∧ t.flash = s.flash
        ∧ t.trace = s.trace ++ [.flashWrite (writtenAt s) ((dataBytes p).take (writtenLen p s)) false,
            .fatalSignal 2])
    ∧ (∀ v p st, DataAccepted .defl v p s → s.sessionOk = true → s.infl = some st →
      let out := (inflateFeed s.cfg.inflateWindow st (dataBytes p)).1
      0 < min out.length s.sess.room →
      ∃ t, exec (.flashDeflData v p) s = .next t ∧ t.mode = .halted ∧ t.fatal = .flashFault ∧ t.flash = s.flash
        ∧ t.trace = s.trace ++ [.flashWrite (writtenAt s) (out.take s.sess.room) false, .fatalSignal 2])
    ∧ (∀ v, ∃ t, exec (.eraseFlash v []) s = .next t ∧ t.mode = .halted ∧ t.fatal = .flashFault
        ∧ t.flash = s.flash ∧ t.trace = s.trace ++ [.flashEraseChip false, .fatalSignal 2])
    ∧ (∀ v p, p.length = 8 → (wordAt p 0).toNat % s.cfg.sectorSize = 0 → (wordAt p 1).toNat % s.cfg.sectorSize = 0 →
      InFlash s (wordAt p 0).toNat (wordAt p 1).toNat → wordAt p 1 ≠ 0 →
      ∃ t, exec (.eraseRegion v p) s = .next t ∧ t.mode = .halted ∧ t.fatal = .flashFault ∧ t.flash = s.flash
        ∧ t.trace = s.trace
            ++ [.flashErase (wordAt p 0).toNat (wordAt p 1).toNat false, .fatalSignal 2])
    ∧ (∀ r, s.cfg.ok = true → s.mainNext → s.mode = .stream → s.rs = some r → r.ok s.cfg = true →
      r.sent.toNat < r.len.toNat → r.sent.toNat - r.acked.toNat < r.inflight.toNat →
      ∃ t, step s = .next t ∧ t.mode = .halted ∧ t.fatal = .flashFault ∧ t.flash = s.flash
        ∧ t.trace = s.trace
            ++ [.flashRead (r.addr.toNat + r.sent.toNat) (min r.pkt.toNat (r.len.toNat - r.sent.toNat)) none,
                .fatalSignal 2]))

/-! ## Ports that never answer -/

/-- R64, R138, R417: while MAIN waits for an answer that never comes, its turns change nothing and are no fault, and only
the queue and its overflow fields move; the external reset ends the wait. That the hold is a step to the same state is
the model's choice (log 9). -/
def Obligations.UnansweredRequestHoldsMain : Prop :=
  ∀ (s : State) (q : PortRequest), s.cfg.ok = true → s.waiting = some q →
    (s.inbox.head? = none ∨ s.inbox.head? = some .mainTurn → step s = .next { s with inbox := s.inbox.tail })
    ∧ (∀ t, step s = .next t → s.inbox.head? ≠ some .reset →
        t = { s with inbox := s.inbox.tail, rxq := t.rxq, ovf := t.ovf, ovfCnt := t.ovfCnt })
    ∧ (s.inbox.head? = some .reset → ∃ t, step s = .next t ∧ t.waiting = none ∧ t.mode = .boot)

/-- R64, R71, R193, R417: a step that comes to wait for an answer does so at the first transaction that is listed as
never answered. Before it stand answered transactions and no frame, the same as when every port answers; after it comes
nothing: the mode, the stream and the cause are as they were. Which transactions are listed is the model's field
`silent` (log 26). -/
def Obligations.UnansweredRequestCutsTheStepOff : Prop :=
  ∀ (s t : State) (q : PortRequest), s.waiting = none → step s = .next t → t.waiting = some q →
    ∃ before, t.trace = s.trace ++ before ++ [.unanswered q] ∧ (∀ e ∈ before, e.isTransaction = true)
      ∧ s.portsAnswer before.length ∧ s.trace.length + before.length ∈ s.silent
      ∧ t.mode = s.mode ∧ t.rs = s.rs ∧ t.fatal = s.fatal
      ∧ ∃ u, step { s with silent := [] } = .next u ∧ u.waiting = none ∧ s.trace ++ before <+: u.trace

/-! ## SYNC and the sessions -/

/-- R200, R201, R416: SYNC drops the session, the inflate state and the frame buffer, sends one response, and leaves
the queue and everything else as it was. -/
def Obligations.SyncDropsTheSession : Prop :=
  ∀ (v : Word) (p : List Byte) (s : State), s.portsAnswer 1 →
    ∃ t, exec (.sync v p) s = .next t ∧ t.sess.kind = .none ∧ t.infl = none
      ∧ t = { s.acking .sync with sess := t.sess, infl := none, fbuf := [] }

/-- R201, R202, R203, R230: FLASH_BEGIN and FLASH_DEFL_BEGIN erase the sectors of their region, open the session, and
only then respond; for DEFL a fresh inflater stands by (R321). That erased bytes read 0xFF is R76's reference flash
(log 4). -/
def Obligations.FlashBeginsOpenASession : Prop :=
  ∀ (v : Word) (p : List Byte) (s : State), BeginAccepted (InFlash s) p s → s.portsAnswer 2 →
    (0 < (beginErase p s).2 → nextAnswer s ≠ .fault) →
    ∀ (i : Instr) (kind : SessionKind) (c : Opcode),
      (i = .flashBegin v p ∧ kind = .flash ∧ c = .flashBegin)
        ∨ (i = .flashDeflBegin v p ∧ kind = .defl ∧ c = .flashDeflBegin) →
      ∃ t, exec i s = .next t ∧ t.sess = openedSession kind p s
        ∧ (kind = .flash → t.infl = none)
        ∧ (kind = .defl → ∃ x, t.infl = some x ∧ x.phase = .zhdr ∧ x.bits = [] ∧ x.outTotal = 0 ∧ x.hist = []
            ∧ x.adler = 1)
        ∧ (∀ a, t.flash.read a
            = if (beginErase p s).1 ≤ a ∧ a < (beginErase p s).1 + (beginErase p s).2 then 0xFF else s.flash.read a)
        ∧ t.trace = s.trace
            ++ (if 0 < (beginErase p s).2 then [.flashErase (beginErase p s).1 (beginErase p s).2 true] else [])
            ++ [sent (okPacket (s.cfg.opcodes.code c))]
        ∧ (t.answers, t.draws)
            = (if 0 < (beginErase p s).2 then (s.answers.tail, s.draws + 1) else (s.answers, s.draws))
        ∧ t = { s with sess := t.sess, infl := t.infl, flash := t.flash, answers := t.answers, draws := t.draws,
                       trace := t.trace }

/-- R203, R261: the erase range starts at the last sector boundary at or before the offset and ends at the first one
at or after the region's end, inside the flash; for an empty region it is empty. -/
def Obligations.EraseRangeCoversSectors : Prop :=
  ∀ (c : Config) (offset total : Nat), c.ok = true → offset + total ≤ c.flashSize →
    (eraseRange c offset total).1 ≤ offset ∧ offset < (eraseRange c offset total).1 + c.sectorSize
    ∧ (eraseRange c offset total).1 % c.sectorSize = 0 ∧ (eraseRange c offset total).2 % c.sectorSize = 0
    ∧ (eraseRange c offset total).1 + (eraseRange c offset total).2 ≤ c.flashSize
    ∧ (total = 0 → (eraseRange c offset total).2 = 0)
    ∧ (0 < total → offset + total ≤ (eraseRange c offset total).1 + (eraseRange c offset total).2
        ∧ (eraseRange c offset total).1 + (eraseRange c offset total).2 < offset + total + c.sectorSize)

/-- R201, R213, R214: MEM_BEGIN opens a RAM session; nothing is erased or cleared. -/
def Obligations.MemBeginOpensASession : Prop :=
  ∀ (v : Word) (p : List Byte) (s : State),
    BeginAccepted (fun a n => ramOk s.cfg a n = true) p s → s.portsAnswer 1 →
    exec (.memBegin v p) s
      = .next { s.acking .memBegin with sess := openedSession .mem p s, infl := none }

/-- R186, R201, R202, R213, R230, R372 rows 5 to 8: a BEGIN whose payload has the wrong length, whose block size is 0
or too large, or whose region is out of bounds answers with the failure of the first of these, leaves no session and
changes nothing else. -/
def Obligations.RefusedBeginLeavesNoSession : Prop :=
  ∀ (v : Word) (p : List Byte) (s : State) (i : Instr) (c : Opcode) (region : Nat → Nat → Prop), s.portsAnswer 1 →
    (i = .flashBegin v p ∧ c = .flashBegin ∧ region = InFlash s)
      ∨ (i = .flashDeflBegin v p ∧ c = .flashDeflBegin ∧ region = InFlash s)
      ∨ (i = .memBegin v p ∧ c = .memBegin ∧ region = fun a n => ramOk s.cfg a n = true) →
    ∀ (f : Failure),
      (p.length ≠ 16 ∧ f = .badDataLen)
        ∨ (p.length = 16 ∧ ((wordAt p 2).toNat = 0 ∨ s.cfg.maxWriteBlock < (wordAt p 2).toNat)
            ∧ f = .badBlocksize)
        ∨ (p.length = 16 ∧ 1 ≤ (wordAt p 2).toNat ∧ (wordAt p 2).toNat ≤ s.cfg.maxWriteBlock
            ∧ ¬region (wordAt p 3).toNat (wordAt p 0).toNat ∧ f = .bounds) →
      ∃ t, exec i s = .next t ∧ t.sess.kind = .none
        ∧ t = { s.failing c f with sess := t.sess, infl := none }

/-- R185, R205, R372 rows 9 to 14: the six checks of a data command, in order: the first that fails is the one
reported, and all state is as it was. -/
def Obligations.RefusedDataChangesNothing : Prop :=
  ∀ (v : Word) (p : List Byte) (s : State) (i : Instr) (kind : SessionKind) (c : Opcode),
    IsDataCommand i v p kind c → s.portsAnswer 1 →
    (¬DataShape p → exec i s = .next (s.failing c .badDataLen))
    ∧ (DataShape p → s.sess.kind ≠ kind → exec i s = .next (s.failing c .notInFlashMode))
    ∧ (DataShape p → s.sess.kind = kind → s.sess.bsize.toNat < (wordAt p 0).toNat →
        exec i s = .next (s.failing c .badBlocksize))
    ∧ (DataShape p → s.sess.kind = kind → (wordAt p 0).toNat ≤ s.sess.bsize.toNat →
        wordAt p 1 ≠ s.sess.nextSeq → exec i s = .next (s.failing c .sequence))
    ∧ (DataShape p → s.sess.kind = kind → (wordAt p 0).toNat ≤ s.sess.bsize.toNat →
        wordAt p 1 = s.sess.nextSeq → v ≠ (csum s.cfg.csumSeed (dataBytes p)).setWidth 32 →
        exec i s = .next (s.failing c .badDataChecksum))
    ∧ (DataShape p → s.sess.kind = kind → (wordAt p 0).toNat ≤ s.sess.bsize.toNat →
        wordAt p 1 = s.sess.nextSeq → v = (csum s.cfg.csumSeed (dataBytes p)).setWidth 32 →
        kind ≠ .defl → (wordAt p 0).toNat ≠ 0 → s.sess.written = s.sess.total →
        exec i s = .next (s.failing c .tooMuchData))

/-- R66, R204, R206, R207, R208: an accepted FLASH_DATA writes the bytes that fit at base + written, in payload order,
advances the session, and then responds. That a written byte is ANDed with the old one is R76's reference flash
(log 4). -/
def Obligations.FlashDataWritesAndAdvances : Prop :=
  ∀ (v : Word) (p : List Byte) (s : State),
    DataAccepted .flash v p s → s.sessionOk = true → s.flash.wf = true → s.portsAnswer 2 →
    (0 < writtenLen p s → nextAnswer s ≠ .fault) →
    ∃ t, exec (.flashData v p) s = .next t
      ∧ t.sess = s.sess.advanced (writtenLen p s) (dataBytes p)
      ∧ t.sess.written.toNat = s.sess.written.toNat + writtenLen p s
      ∧ (∀ a, t.flash.read a
          = if writtenAt s ≤ a ∧ a < writtenAt s + writtenLen p s
            then s.flash.read a &&& byteAt p (16 + (a - writtenAt s)) else s.flash.read a)
      ∧ t.trace = s.trace
          ++ (if 0 < writtenLen p s
              then [.flashWrite (writtenAt s) ((dataBytes p).take (writtenLen p s)) true] else [])
          ++ [sent (okPacket (s.cfg.opcodes.code .flashData))]
      ∧ (t.answers, t.draws)
          = (if 0 < writtenLen p s then (s.answers.tail, s.draws + 1) else (s.answers, s.draws))
      ∧ t = { s with sess := t.sess, flash := t.flash, answers := t.answers, draws := t.draws, trace := t.trace }

/-- R66, R206, R207, R208, R215: an accepted MEM_DATA writes the bytes that fit at base + written, in payload order,
advances the session, and then responds. That a byte past the 2^32 bytes of the MEM space, in a region that RAM_OK
admits, is asked for and not stored is the model's choice (log 25). -/
def Obligations.MemDataWritesAndAdvances : Prop :=
  ∀ (v : Word) (p : List Byte) (s : State),
    DataAccepted .mem v p s → s.sessionOk = true → s.ram.wf = true → s.portsAnswer 2 →
    ∃ t, exec (.memData v p) s = .next t
      ∧ t.sess = s.sess.advanced (writtenLen p s) (dataBytes p)
      ∧ t.sess.written.toNat = s.sess.written.toNat + writtenLen p s
      ∧ (∀ a, t.ram.read a
          = if writtenAt s ≤ a ∧ a < writtenAt s + writtenLen p s ∧ a < 2 ^ 32
            then byteAt p (16 + (a - writtenAt s)) else s.ram.read a)
      ∧ t.trace = s.trace
          ++ (if 0 < writtenLen p s then [.memWrite (writtenAt s) ((dataBytes p).take (writtenLen p s))] else [])
          ++ [sent (okPacket (s.cfg.opcodes.code .memData))]
      ∧ t = { s with sess := t.sess, ram := t.ram, trace := t.trace }

/-- R66, R206, R208, R232, R233: an accepted FLASH_DEFL_DATA whose output fits and has no error writes all of it at
base + written, advances the session and the inflater, and then responds. The AND is R76's reference flash (log 4). -/
def Obligations.DeflDataWritesAndAdvances : Prop :=
  ∀ (v : Word) (p : List Byte) (s : State) (st st' : Inflate) (out : List Byte),
    DataAccepted .defl v p s → s.sessionOk = true → s.flash.wf = true → s.infl = some st →
    inflateFeed s.cfg.inflateWindow st (dataBytes p) = (out, st') → out.length ≤ s.sess.room → st'.phase ≠ .error →
    s.portsAnswer 2 →
    (0 < out.length → nextAnswer s ≠ .fault) →
    ∃ t, exec (.flashDeflData v p) s = .next t
      ∧ t.sess = s.sess.advanced out.length (dataBytes p)
      ∧ t.sess.written.toNat = s.sess.written.toNat + out.length
      ∧ t.infl = some st'
      ∧ (∀ a, t.flash.read a
          = if writtenAt s ≤ a ∧ a < writtenAt s + out.length
            then s.flash.read a &&& byteAt out (a - writtenAt s) else s.flash.read a)
      ∧ t.trace = s.trace ++ (if 0 < out.length then [.flashWrite (writtenAt s) out true] else [])
          ++ [sent (okPacket (s.cfg.opcodes.code .flashDeflData))]
      ∧ (t.answers, t.draws) = (if 0 < out.length then (s.answers.tail, s.draws + 1) else (s.answers, s.draws))
      ∧ t = { s with sess := t.sess, infl := t.infl, flash := t.flash, answers := t.answers, draws := t.draws,
                     trace := t.trace }

/-- R232, R233, R234, R342, R372 rows 15 and 16: output beyond the declared size, or an error in the stream, aborts
the session after the output up to the size, or before the error, is written. The AND is R76's (log 4). -/
def Obligations.DeflDataAbortsAfterWriting : Prop :=
  ∀ (v : Word) (p : List Byte) (s : State) (st st' : Inflate) (out : List Byte) (f : Failure),
    DataAccepted .defl v p s → s.sessionOk = true → s.flash.wf = true → s.infl = some st →
    inflateFeed s.cfg.inflateWindow st (dataBytes p) = (out, st') →
    (s.sess.room < out.length ∧ f = .tooMuchData)
      ∨ (out.length ≤ s.sess.room ∧ st'.phase = .error ∧ f = .inflateError) →
    s.portsAnswer 2 →
    (0 < (out.take s.sess.room).length → nextAnswer s ≠ .fault) →
    ∃ t, exec (.flashDeflData v p) s = .next t ∧ t.sess.kind = .none ∧ t.infl = none
      ∧ (∀ a, t.flash.read a
          = if writtenAt s ≤ a ∧ a < writtenAt s + (out.take s.sess.room).length
            then s.flash.read a &&& byteAt out (a - writtenAt s) else s.flash.read a)
      ∧ t.trace = s.trace
          ++ (if 0 < (out.take s.sess.room).length then [.flashWrite (writtenAt s) (out.take s.sess.room) true]
              else [])
          ++ [sent (failPacket (s.cfg.opcodes.code .flashDeflData) (f.code s.cfg.errs))]
      ∧ (t.answers, t.draws)
          = (if 0 < (out.take s.sess.room).length then (s.answers.tail, s.draws + 1) else (s.answers, s.draws))
      ∧ t = { s with sess := t.sess, infl := t.infl, flash := t.flash, answers := t.answers, draws := t.draws,
                     trace := t.trace }

/-- R209, R210, R211, R212, R235: FLASH_END and FLASH_DEFL_END close their session however much of it was written,
respond, and ask for a reset after the response when `stay = 0`. -/
def Obligations.FlashEndsCloseTheSession : Prop :=
  ∀ (v : Word) (p : List Byte) (s : State) (i : Instr) (kind : SessionKind) (c : Opcode),
    (i = .flashEnd v p ∧ kind = .flash ∧ c = .flashEnd)
      ∨ (i = .flashDeflEnd v p ∧ kind = .defl ∧ c = .flashDeflEnd) →
    p.length = 4 → s.sess.kind = kind → s.portsAnswer 1 →
    ∃ t, exec i s = .next t ∧ t.sess.kind = .none ∧ t.infl = none
      ∧ (wordAt p 0 ≠ 0 → t = { s.acking c with sess := t.sess, infl := none })
      ∧ (wordAt p 0 = 0 →
          t = { s.acking c with
            sess := t.sess
            infl := none
            mode := .rebooting
            trace := s.trace ++ [sent (okPacket (s.cfg.opcodes.code c)), .resetReq] })

/-- R210, R220, R221: MEM_END closes the RAM session and responds; MEM_FINISH hands control to `entry` after the
response. -/
def Obligations.MemEndsCloseTheSession : Prop :=
  ∀ (v : Word) (p : List Byte) (s : State), p.length = 8 → s.sess.kind = .mem → s.portsAnswer 1 →
    (wordAt p 0 ≠ 0 → ∃ t, exec (.memEnd v p) s = .next t ∧ t.sess.kind = .none
      ∧ t = { s.acking .memEnd with sess := t.sess, infl := none })
    ∧ (wordAt p 0 = 0 → ∃ t, exec (.memFinish v p) s = .next t ∧ t.sess.kind = .none
        ∧ t = { s.acking .memEnd with
            sess := t.sess
            infl := none
            mode := .executed
            trace := s.trace ++ [sent (okPacket (s.cfg.opcodes.code .memEnd)), .execSignal (wordAt p 1)] })

/-- R186, R209, R220, R235, R372 rows 17 and 18: an END with the wrong length, or outside its own kind of session,
answers with that failure and changes nothing else. -/
def Obligations.RefusedEndChangesNothing : Prop :=
  ∀ (v : Word) (p : List Byte) (s : State) (i : Instr) (kind : SessionKind) (c : Opcode) (n : Nat),
    (i = .flashEnd v p ∧ kind = .flash ∧ c = .flashEnd ∧ n = 4)
      ∨ (i = .flashDeflEnd v p ∧ kind = .defl ∧ c = .flashDeflEnd ∧ n = 4)
      ∨ (i = .memEnd v p ∧ kind = .mem ∧ c = .memEnd ∧ n = 8)
      ∨ (i = .memFinish v p ∧ kind = .mem ∧ c = .memEnd ∧ n = 8) →
    s.portsAnswer 1 →
    (p.length ≠ n → exec i s = .next (s.failing c .badDataLen))
    ∧ (p.length = n → s.sess.kind ≠ kind → exec i s = .next (s.failing c .notInFlashMode))

/-- R236: what each command makes of the kind of session that is open. A BEGIN either leaves none,
or opens its session and answers success last, unless that answer is never taken. -/
def Obligations.SessionTransitions : Prop :=
  ∀ (i : Instr) (s : State), ∃ t, exec i s = .next t ∧
    (∀ v p, i = .sync v p → t.sess.kind = .none)
    ∧ (∀ v p, i = .flashBegin v p →
        t.sess.kind = .none ∨ t.sess.kind = .flash ∧ (t.waiting ≠ none
          ∨ t.trace.getLast? = some (sent (okPacket (s.cfg.opcodes.code .flashBegin)))))
    ∧ (∀ v p, i = .memBegin v p →
        t.sess.kind = .none ∨ t.sess.kind = .mem ∧ (t.waiting ≠ none
          ∨ t.trace.getLast? = some (sent (okPacket (s.cfg.opcodes.code .memBegin)))))
    ∧ (∀ v p, i = .flashDeflBegin v p →
        t.sess.kind = .none ∨ t.sess.kind = .defl ∧ (t.waiting ≠ none
          ∨ t.trace.getLast? = some (sent (okPacket (s.cfg.opcodes.code .flashDeflBegin)))))
    ∧ (∀ v p, i = .flashData v p ∨ i = .memData v p → t.sess.kind = s.sess.kind)
    ∧ (∀ v p, i = .flashDeflData v p →
        t.sess.kind = s.sess.kind ∨ s.sess.kind = .defl ∧ t.sess.kind = .none)
    ∧ (∀ v p, i = .flashEnd v p → t.sess.kind = s.sess.kind ∨ s.sess.kind = .flash ∧ t.sess.kind = .none)
    ∧ (∀ v p, i = .flashDeflEnd v p → t.sess.kind = s.sess.kind ∨ s.sess.kind = .defl ∧ t.sess.kind = .none)
    ∧ (∀ v p, i = .memEnd v p ∨ i = .memFinish v p →
        t.sess.kind = s.sess.kind ∨ s.sess.kind = .mem ∧ t.sess.kind = .none)
    ∧ (∀ v p, i = .readFlash v p ∨ i = .eraseFlash v p ∨ i = .eraseRegion v p ∨ i = .spiFlashMd5 v p
        ∨ i = .readReg v p ∨ i = .writeReg v p ∨ i = .changeBaudrate v p → t.sess.kind = s.sess.kind)

/-- R237: the single-shot commands neither write the session and its inflate state nor read them: with another session
in their place they do the same. -/
def Obligations.SingleShotCommandsIgnoreTheSession : Prop :=
  ∀ (i : Instr) (v : Word) (p : List Byte) (s : State) (q : Session) (x : Option Inflate),
    i = .readFlash v p ∨ i = .eraseFlash v p ∨ i = .eraseRegion v p ∨ i = .spiFlashMd5 v p ∨ i = .readReg v p
      ∨ i = .writeReg v p ∨ i = .changeBaudrate v p →
    ∃ t, exec i s = .next t ∧ t.sess = s.sess ∧ t.infl = s.infl
      ∧ exec i { s with sess := q, infl := x } = .next { t with sess := q, infl := x }

/-- R66, R76, R77, R99, R202 to R208, R265, R267: FLASH_BEGIN of a region, then its size in blocks of FLASH_DATA, then
SPI_FLASH_MD5 over the region: the flash holds exactly the bytes sent, and the digest returned is theirs. The
hypothesis on the answers is R76's reference flash, on which no transaction faults (log 4). -/
def Obligations.FlashSessionHoldsAndVerifiesTheBytesSent : Prop :=
  ∀ (s : State) (v1 v2 : Word) (p1 p2 : List Byte) (blocks : List (List Byte)),
    s.cfg.ok = true → s.flash.wf = true → BeginAccepted (InFlash s) p1 s →
    (∀ d ∈ blocks, d.length ≤ (wordAt p1 2).toNat) → blocks.flatten.length = (wordAt p1 0).toNat →
    p2.length = 16 → wordAt p2 0 = wordAt p1 3 → wordAt p2 1 = wordAt p1 0 →
    (∀ j, j < 1 + blocks.length + blocks.flatten.length → answerAt s j = .stored) →
    s.portsAnswer (3 + 2 * blocks.length + blocks.flatten.length) →
    ∃ t u, execAll (.flashBegin v1 p1 :: flashBlocks s.cfg.csumSeed 0 blocks) s = .next t
      ∧ t.flash.readBytes (wordAt p1 3).toNat (wordAt p1 0).toNat = blocks.flatten
      ∧ t.sess.kind = .flash ∧ t.sess.written = t.sess.total
      ∧ t.sess.rcsum = csum s.cfg.csumSeed blocks.flatten
      ∧ exec (.spiFlashMd5 v2 p2) t = .next u
      ∧ u.trace.getLast? = some (sent ([0x01, s.cfg.opcodes.spiFlashMd5, 18, 0, 0, 0, 0, 0] ++ md5 blocks.flatten
          ++ [0x00, 0x00]))

/-! ## The single-shot commands -/

/-- R250: READ_FLASH responds first and then opens the stream. -/
def Obligations.ReadFlashOpensTheStream : Prop :=
  ∀ (v : Word) (p : List Byte) (s : State), p.length = 16 → InFlash s (wordAt p 0).toNat (wordAt p 1).toNat →
    1 ≤ (wordAt p 2).toNat → (wordAt p 2).toNat ≤ s.cfg.readPktMax → wordAt p 3 ≠ 0 → s.portsAnswer 1 →
    exec (.readFlash v p) s = .next { s.acking .readFlash with
      mode := .stream
      rs := some { addr := wordAt p 0, len := wordAt p 1, pkt := wordAt p 2, inflight := wordAt p 3, sent := 0,
                   acked := 0, md5 := md5Init } }

/-- R186, R250, R260, R262, R265, R270, R271, R272, R275, R372 rows 5 and 19 to 26: a single-shot command that a check
refuses answers with the failure of the first check that fails, asks nothing of a port and changes nothing else. -/
def Obligations.RefusedSingleShotChangesNothing : Prop :=
  ∀ (v : Word) (p : List Byte) (s : State), s.portsAnswer 1 →
    (p.length ≠ 16 → exec (.readFlash v p) s = .next (s.failing .readFlash .badDataLen))
    ∧ (p.length = 16 → ¬InFlash s (wordAt p 0).toNat (wordAt p 1).toNat →
        exec (.readFlash v p) s = .next (s.failing .readFlash .bounds))
    ∧ (p.length = 16 → InFlash s (wordAt p 0).toNat (wordAt p 1).toNat →
        wordAt p 2 = 0 ∨ s.cfg.readPktMax < (wordAt p 2).toNat ∨ wordAt p 3 = 0 →
        exec (.readFlash v p) s = .next (s.failing .readFlash .badBlocksize))
    ∧ (p.length ≠ 0 → exec (.eraseFlash v p) s = .next (s.failing .eraseFlash .badDataLen))
    ∧ (p.length ≠ 8 → exec (.eraseRegion v p) s = .next (s.failing .eraseRegion .badDataLen))
    ∧ (p.length = 8 → (wordAt p 0).toNat % s.cfg.sectorSize ≠ 0 ∨ (wordAt p 1).toNat % s.cfg.sectorSize ≠ 0
          ∨ ¬InFlash s (wordAt p 0).toNat (wordAt p 1).toNat →
        exec (.eraseRegion v p) s = .next (s.failing .eraseRegion .bounds))
    ∧ (p.length ≠ 16 → exec (.spiFlashMd5 v p) s = .next (s.failing .spiFlashMd5 .badDataLen))
    ∧ (p.length = 16 → ¬InFlash s (wordAt p 0).toNat (wordAt p 1).toNat →
        exec (.spiFlashMd5 v p) s = .next (s.failing .spiFlashMd5 .bounds))
    ∧ (p.length ≠ 4 → exec (.readReg v p) s = .next (s.failing .readReg .badDataLen))
    ∧ (p.length = 4 → inRegs s.cfg (wordAt p 0).toNat = false →
        exec (.readReg v p) s = .next (s.failing .readReg .bounds))
    ∧ (p.length < 16 ∨ p.length % 16 ≠ 0 → exec (.writeReg v p) s = .next (s.failing .writeReg .badDataLen))
    ∧ (16 ≤ p.length → p.length % 16 = 0 →
        (∃ j, j < p.length / 16 ∧ inRegs s.cfg (wordAt p (4 * j)).toNat = false) →
        exec (.writeReg v p) s = .next (s.failing .writeReg .bounds))
    ∧ (p.length ≠ 8 → exec (.changeBaudrate v p) s = .next (s.failing .changeBaudrate .badDataLen))
    ∧ (p.length = 8 → s.transport ≠ .uart →
        exec (.changeBaudrate v p) s = .next (s.failing .changeBaudrate .cmdNotImplemented))
    ∧ (p.length = 8 → s.transport = .uart → wordAt p 0 = 0 →
        exec (.changeBaudrate v p) s = .next (s.failing .changeBaudrate .bounds))

/-- R76, R252, R253: with something left to send and the window open, a stream step reads the next packet, sends it,
and counts it into the digest and `sent`. That the answer `stored` gives the bytes of `s.flash` is R76's reference
flash, and the model's choice (log 3, log 4). -/
def Obligations.StreamSendsTheNextPacket : Prop :=
  ∀ (s : State) (r : ReadStream), s.cfg.ok = true → s.mainNext → s.mode = .stream → s.rs = some r →
    r.ok s.cfg = true → r.sent.toNat < r.len.toNat → r.sent.toNat - r.acked.toNat < r.inflight.toNat →
    nextAnswer s ≠ .fault → s.portsAnswer 2 →
    let n := min r.pkt.toNat (r.len.toNat - r.sent.toNat)
    let b := answerBytes s (r.addr.toNat + r.sent.toNat) n (nextAnswer s)
    b.length = n
    ∧ (nextAnswer s = .stored → b = s.flash.readBytes (r.addr.toNat + r.sent.toNat) n)
    ∧ step s = .next { s with
        inbox := s.inbox.tail
        rs := some { r with md5 := md5Update r.md5 b, sent := BitVec.ofNat 32 (r.sent.toNat + n) }
        answers := s.answers.tail
        draws := s.draws + 1
        trace := s.trace ++ [.flashRead (r.addr.toNat + r.sent.toNat) n (some b), sent b] }

/-- R254: where the stream reads, an empty frame is ignored; a frame of four bytes that counts no less than was
acknowledged and no more than was sent moves the acknowledgement; any other frame ends the stream with the digest
frame (R255), back in mode CMD, and is not run as a request. -/
def Obligations.AcknowledgementsAreHandled : Prop :=
  ∀ (s : State) (f rest : List Byte) (r : ReadStream), s.AtFrameEnd f rest → r.Reads s → s.portsAnswer 1 →
    (f = [] → step s = .next (s.afterFrame rest))
    ∧ (f.length = 4 → r.acked.toNat ≤ (le32 f 0).toNat → (le32 f 0).toNat ≤ r.sent.toNat →
        step s = .next { s.afterFrame rest with rs := some { r with acked := le32 f 0 } })
    ∧ (f ≠ [] → ¬(f.length = 4 ∧ r.acked.toNat ≤ (le32 f 0).toNat ∧ (le32 f 0).toNat ≤ r.sent.toNat) →
        step s = .next { s.afterFrame rest with
          rs := none
          mode := .cmd
          trace := s.trace ++ [sent (md5Final r.md5)] })

/-- R253, R255: when everything is acknowledged the stream ends, with the digest frame and back in mode CMD, before
anything is read from the queue. -/
def Obligations.StreamEndsWithTheDigest : Prop :=
  ∀ (s : State) (r : ReadStream), s.cfg.ok = true → s.mainNext → s.mode = .stream → s.rs = some r →
    r.ok s.cfg = true → r.acked = r.len → s.portsAnswer 1 →
    step s = .next { s with
      inbox := s.inbox.tail
      rs := none
      mode := .cmd
      trace := s.trace ++ [sent (md5Final r.md5)] }

/-- R76, R260, R262: ERASE_FLASH erases everything; ERASE_REGION erases its region and nothing else, and an empty
region without asking the flash; then they respond. That erased bytes read 0xFF is R76's reference flash (log 4). -/
def Obligations.ErasesEraseTheirRegion : Prop :=
  ∀ (v : Word) (p : List Byte) (s : State), s.portsAnswer 2 →
    (nextAnswer s ≠ .fault →
      ∃ t, exec (.eraseFlash v []) s = .next t ∧ (∀ a, t.flash.read a = 0xFF)
        ∧ t = { s with
            flash := t.flash
            answers := s.answers.tail
            draws := s.draws + 1
            trace := s.trace ++ [.flashEraseChip true, sent (okPacket (s.cfg.opcodes.code .eraseFlash))] })
    ∧ (p.length = 8 → (wordAt p 0).toNat % s.cfg.sectorSize = 0 → (wordAt p 1).toNat % s.cfg.sectorSize = 0 →
        InFlash s (wordAt p 0).toNat (wordAt p 1).toNat → wordAt p 1 ≠ 0 → nextAnswer s ≠ .fault →
        ∃ t, exec (.eraseRegion v p) s = .next t
          ∧ (∀ a, t.flash.read a
              = if (wordAt p 0).toNat ≤ a ∧ a < (wordAt p 0).toNat + (wordAt p 1).toNat then 0xFF
                else s.flash.read a)
          ∧ t = { s with
              flash := t.flash
              answers := s.answers.tail
              draws := s.draws + 1
              trace := s.trace ++ [.flashErase (wordAt p 0).toNat (wordAt p 1).toNat true,
                sent (okPacket (s.cfg.opcodes.code .eraseRegion))] })
    ∧ (p.length = 8 → (wordAt p 0).toNat % s.cfg.sectorSize = 0 → (wordAt p 0).toNat ≤ s.cfg.flashSize →
        wordAt p 1 = 0 → exec (.eraseRegion v p) s = .next (s.acking .eraseRegion))

/-- R76, R265, R266, R304: SPI_FLASH_MD5 reads its range in ascending order, a sector's length at a time, and answers
with the 16 digest bytes of what it read as the body and with value 0. That answers `stored` give the bytes of `s.flash`
is R76's reference flash, and the model's choice (log 3, log 4). -/
def Obligations.SpiFlashMd5DigestsTheRange : Prop :=
  ∀ (v : Word) (p : List Byte) (s : State), s.cfg.ok = true → p.length = 16 →
    InFlash s (wordAt p 0).toNat (wordAt p 1).toNat →
    let addr := (wordAt p 0).toNat
    let size := (wordAt p 1).toNat
    let sector := s.cfg.sectorSize
    let reads := (size + sector - 1) / sector
    let at' (j : Nat) := addr + j * sector
    let len (j : Nat) := min sector (size - j * sector)
    let data (j : Nat) := answerBytes s (at' j) (len j) (answerAt s j)
    (∀ j, j < reads → answerAt s j ≠ .fault) → s.portsAnswer (reads + 1) →
    ((∀ j, j < reads → answerAt s j = .stored) →
      ((List.range reads).flatMap data) = s.flash.readBytes addr size)
    ∧ exec (.spiFlashMd5 v p) s = .next { s with
        answers := s.answers.drop reads
        draws := s.draws + reads
        trace := s.trace ++ ((List.range reads).map fun j => .flashRead (at' j) (len j) (some (data j)))
          ++ [sent ([0x01, s.cfg.opcodes.spiFlashMd5, 18, 0, 0, 0, 0, 0]
                ++ md5 ((List.range reads).flatMap data) ++ [0x00, 0x00])] }

/-- R89, R270: READ_REG reads one allowed register and answers with its word as the value. With the port's plain
answer the word is the one stored, which is the model's choice (log 3, log 6). -/
def Obligations.ReadRegAnswersTheWord : Prop :=
  ∀ (v : Word) (p : List Byte) (s : State), p.length = 4 → inRegs s.cfg (wordAt p 0).toNat = true →
    s.portsAnswer 2 →
    let w := answerWord s (wordAt p 0).toNat (nextAnswer s)
    (nextAnswer s = .stored → w = s.regs.read (wordAt p 0).toNat)
    ∧ (∀ x, nextAnswer s = .word x → w = x)
    ∧ exec (.readReg v p) s = .next { s with
        answers := s.answers.tail
        draws := s.draws + 1
        trace := s.trace ++ [.regRead (wordAt p 0).toNat w,
          sent ([0x01, s.cfg.opcodes.readReg, 2, 0] ++ put32 w ++ [0x00, 0x00])] }

/-- R272, R273: WRITE_REG runs its entries in payload order and then responds: a mask of all ones writes the value, any
other reads first and changes the bits of the mask only; then the delay, if any. So the registers that no entry names are
as they were; where all masks are all ones, nothing is read and each register named holds the value of the last entry
that names it; and with one entry the transactions are these. What a register holds after a write, and what a read with
the answer `stored` gives, is the model's choice (log 6). -/
def Obligations.WriteRegWritesItsEntries : Prop :=
  ∀ (v : Word) (p : List Byte) (s : State), s.regs.wf = true → 16 ≤ p.length → p.length % 16 = 0 →
    (∀ j, j < p.length / 16 → inRegs s.cfg (wordAt p (4 * j)).toNat = true) →
    s.portsAnswer (3 * (p.length / 16) + 1) →
    let r := registerWrites s p (p.length / 16) 0 s.regs 0
    exec (.writeReg v p) s = .next { s with
        regs := r.1
        answers := s.answers.drop r.2.1
        draws := s.draws + r.2.1
        trace := s.trace ++ r.2.2 ++ [sent (okPacket (s.cfg.opcodes.code .writeReg))] }
      ∧ (∀ a, (∀ j, j < p.length / 16 → (wordAt p (4 * j)).toNat ≠ a) → r.1.read a = s.regs.read a)
      ∧ ((∀ j, j < p.length / 16 → wordAt p (4 * j + 2) = 0xFFFFFFFF) →
          r.2.1 = 0
          ∧ ∀ j, j < p.length / 16 →
              (∀ k, j < k → k < p.length / 16 → wordAt p (4 * k) ≠ wordAt p (4 * j)) →
              r.1.read (wordAt p (4 * j)).toNat = wordAt p (4 * j + 1))
      ∧ (p.length = 16 →
          let a := (wordAt p 0).toNat
          let old := answerWord s a (nextAnswer s)
          let new := if wordAt p 2 = 0xFFFFFFFF then wordAt p 1
            else (old &&& ~~~wordAt p 2) ||| (wordAt p 1 &&& wordAt p 2)
          r.1.read a = new
          ∧ r.2.2 = (if wordAt p 2 = 0xFFFFFFFF then [] else [.regRead a old]) ++ [.regWrite a new]
              ++ (if wordAt p 3 = 0 then [] else [.delay (wordAt p 3)]))

/-- R275, R276: on the UART, CHANGE_BAUDRATE responds and then signals the new rate. -/
def Obligations.ChangeBaudrateSignalsAfterResponding : Prop :=
  ∀ (v : Word) (p : List Byte) (s : State), p.length = 8 → s.transport = .uart → wordAt p 0 ≠ 0 →
    s.portsAnswer 1 →
    exec (.changeBaudrate v p) s = .next { s with
      trace := s.trace ++ [sent (okPacket (s.cfg.opcodes.code .changeBaudrate)), .baud (wordAt p 0)] }

/-! ## Checksum, digest and inflater -/

/-- R292: the checksum of a concatenation, under a permutation, under one error, and under two errors in the same
bits; and the running checksum (R208) over a list of blocks is the checksum of their concatenation. -/
def Obligations.ChecksumProperties : Prop :=
  ∀ (seed : Byte) (a b : List Byte),
    csum seed [] = seed
    ∧ csum seed (a ++ b) = csum seed a ^^^ csum seed b ^^^ seed
    ∧ (a.Perm b → csum seed a = csum seed b)
    ∧ (∀ k x, k < a.length → x ≠ byteAt a k → csum seed (a.set k x) ≠ csum seed a)
    ∧ (∀ j k x, j < k → k < a.length →
        csum seed ((a.set j (byteAt a j ^^^ x)).set k (byteAt a k ^^^ x)) = csum seed a)
    ∧ ∀ blocks : List (List Byte), blocks.foldl (fun r d => r ^^^ xorBytes d) seed = csum seed blocks.flatten

/-- R297, R305: the digest of pieces absorbed one after another is that of their concatenation. -/
def Obligations.DigestDoesNotDependOnChunking : Prop :=
  ∀ (pieces : List (List Byte)), md5Final (pieces.foldl md5Update md5Init) = md5 pieces.flatten

/-- R322, R341, R342, R343: feeding two pieces one after the other gives the output and the state of feeding them as
one, wherever the boundary falls; so the output of a session does not depend on its blocks. What is left of the bits
after an error is the model's choice (log 17). -/
def Obligations.InflateDoesNotDependOnBoundaries : Prop :=
  ∀ (window : Nat) (st : Inflate) (a b : List Byte),
    inflateFeed window st (a ++ b)
      = ((inflateFeed window st a).1 ++ (inflateFeed window (inflateFeed window st a).2 b).1,
         (inflateFeed window (inflateFeed window st a).2 b).2)

/-- R7, R320, R338, R340: a feed counts its output in 32 bits, keeps the last bytes of it as the history, and folds it
into the Adler-32. That the count wraps is the model's choice (log 29). -/
def Obligations.InflateKeepsHistoryAndAdler : Prop :=
  ∀ (window : Nat) (st st' : Inflate) (data out : List Byte),
    st.hist.length ≤ window → inflateFeed window st data = (out, st') →
    st'.outTotal = st.outTotal + BitVec.ofNat 32 out.length
    ∧ st'.hist = (st.hist ++ out).drop ((st.hist ++ out).length - window)
    ∧ st'.adler = out.foldl adlerByte st.adler
end

