-- ==== Sys2Proof/Laws/Codec.lean ====
section
/-! SUPPORT. What the byte-level operations give back: fields of a packet header, the decoder's answer, and the SLIP
decoder over a string of bytes. -/

namespace Sys2Proof

/-! ## Fields -/

/-- A 16-bit value is the number whose bytes `put16` wrote. -/
theorem put16_join (v : Half) : v.extractLsb' 8 8 ++ v.extractLsb' 0 8 = v := by
  apply BitVec.eq_of_getLsbD_eq
  intro i hi
  simp only [BitVec.getLsbD_append, BitVec.getLsbD_extractLsb']
  split
  · simp; omega
  · simp [show i - 8 < 8 by omega, show 8 + (i - 8) = i by omega]

/-- A 32-bit value is the number whose bytes `put32` wrote. -/
theorem put32_join (v : Word) :
    v.extractLsb' 24 8 ++ v.extractLsb' 16 8 ++ v.extractLsb' 8 8 ++ v.extractLsb' 0 8 = v := by
  apply BitVec.eq_of_getLsbD_eq
  intro i hi
  simp only [BitVec.getLsbD_append, BitVec.getLsbD_extractLsb']
  by_cases h0 : i < 8
  · simp [h0]
  · by_cases h1 : i < 16
    · simp [h0, show i - 8 < 8 by omega, show 8 + (i - 8) = i by omega]
    · by_cases h2 : i < 24
      · simp [h0, show ¬i - 8 < 8 by omega, show i - 8 - 8 < 8 by omega, show 16 + (i - 8 - 8) = i by omega]
      · simp [h0, show ¬i - 8 < 8 by omega, show ¬i - 8 - 8 < 8 by omega, show i - 8 - 8 - 8 < 8 by omega,
          show 24 + (i - 8 - 8 - 8) = i by omega]

@[simp] theorem put16_length (v : Half) : (put16 v).length = 2 := rfl

@[simp] theorem put32_length (v : Word) : (put32 v).length = 4 := rfl

/-- A 16-bit field after two bytes reads as what was put there. -/
theorem le16_put16 (x y : Byte) (v : Half) (r : List Byte) : le16 (x :: y :: (put16 v ++ r)) 2 = v :=
  put16_join v

/-- A 32-bit field at the start of a string reads as what was put there. -/
theorem le32_put32 (v : Word) (r : List Byte) : le32 (put32 v ++ r) 0 = v := put32_join v

/-- A packet's header read back: direction, opcode, L, V, and the payload after it (R83, R84). -/
theorem header_fields (dir op : Byte) (l : Half) (v : Word) (p : List Byte) :
    let f := [dir, op] ++ put16 l ++ put32 v ++ p
    f.length = 8 + p.length ∧ byteAt f 0 = dir ∧ byteAt f 1 = op ∧ le16 f 2 = l ∧ le32 f 4 = v ∧ f.drop 8 = p := by
  refine ⟨?_, rfl, rfl, put16_join l, put32_join v, rfl⟩
  simp only [List.length_append, put16_length, put32_length, List.length_cons, List.length_nil]

/-! ## Opcodes -/

theorem mem_allOpcodes (c : Opcode) : c ∈ allOpcodes := by cases c <;> decide

/-- The opcode byte of a command selects that command, when no two share one. -/
theorem find_code {m : OpcodeMap} (h : m.distinct) (c : Opcode) : m.find (m.code c) = some c := by
  unfold OpcodeMap.find
  cases hf : allOpcodes.find? fun d => m.code d == m.code c with
  | none => simpa using List.find?_eq_none.mp hf c (mem_allOpcodes c)
  | some d => exact congrArg some (h d c (by simpa using List.find?_some hf))

theorem find_some {m : OpcodeMap} {op : Byte} {c : Opcode} (h : m.find op = some c) : m.code c = op := by
  simpa using List.find?_some h

theorem find_none {m : OpcodeMap} {op : Byte} : m.find op = none ↔ ∀ c, m.code c ≠ op := by
  unfold OpcodeMap.find
  rw [List.find?_eq_none]
  exact ⟨fun h c => by simpa using h c (mem_allOpcodes c), fun h c _ => by simpa using h c⟩

/-! ## The decoder -/

/-- What a frame read as a request looks like. -/
theorem decode_ok {m : OpcodeMap} {f : List Byte} {i : Instr} (h : decode m f = .ok i) :
    8 ≤ f.length ∧ byteAt f 0 = 0 ∧ f.length = 8 + (le16 f 2).toNat
      ∧ ∃ c, m.find (byteAt f 1) = some c ∧ i = assemble c (le32 f 4) (f.drop 8) := by
  unfold decode at h
  split at h
  · cases h
  split at h
  · cases h
  split at h
  · cases h
  split at h
  · cases h
  split at h
  · cases h
  rename_i h1 h2 h3 h4 _ c hc
  exact ⟨by omega, not_not.mp h3, not_not.mp h4, c, hc, by cases h; rfl⟩

/-- A frame of this form is a request. -/
theorem decode_of_fields {m : OpcodeMap} {f : List Byte} {c : Opcode} (h8 : 8 ≤ f.length) (h0 : byteAt f 0 = 0)
    (hl : f.length = 8 + (le16 f 2).toNat) (hc : m.find (byteAt f 1) = some c) :
    decode m f = .ok (assemble c (le32 f 4) (f.drop 8)) := by
  unfold decode
  rw [if_neg (by omega), if_neg (by omega), if_neg (not_not.mpr h0), if_neg (not_not.mpr hl), hc]

namespace Machine

/-! ## The SLIP decoder -/

theorem slipDecode_cons (cap : Nat) (d : DecoderState) (fbuf : List Byte) (x : Byte) (r : List Byte) :
    slipDecode cap d fbuf (x :: r)
      = ((slipDecode cap (slipByte cap d fbuf x).dstate (slipByte cap d fbuf x).fbuf r).1,
         (slipDecode cap (slipByte cap d fbuf x).dstate (slipByte cap d fbuf x).fbuf r).2.1,
         (slipByte cap d fbuf x).delivered.toList
           ++ (slipDecode cap (slipByte cap d fbuf x).dstate (slipByte cap d fbuf x).fbuf r).2.2) := rfl

/-- The decoder over two strings in a row. -/
theorem slipDecode_append (cap : Nat) (d : DecoderState) (fbuf a b : List Byte) :
    slipDecode cap d fbuf (a ++ b)
      = ((slipDecode cap (slipDecode cap d fbuf a).1 (slipDecode cap d fbuf a).2.1 b).1,
         (slipDecode cap (slipDecode cap d fbuf a).1 (slipDecode cap d fbuf a).2.1 b).2.1,
         (slipDecode cap d fbuf a).2.2
           ++ (slipDecode cap (slipDecode cap d fbuf a).1 (slipDecode cap d fbuf a).2.1 b).2.2) := by
  induction a generalizing d fbuf with
  | nil => rfl
  | cons x r ih => simp only [List.cons_append, slipDecode_cons, ih, List.append_assoc]

/-- The bytes of one escaped byte add that byte to a frame that has room for it, and deliver nothing. -/
theorem slipDecode_escape {cap : Nat} {fbuf : List Byte} (h : fbuf.length < cap) (x : Byte) :
    slipDecode cap .inFrame fbuf (slipEscape x) = (.inFrame, fbuf ++ [x], []) := by
  unfold slipEscape
  split
  · subst x
    simp [slipDecode, slipByte, slipAppend, slipEnd, slipEsc, slipEscEnd, h]
  · split
    · subst x
      simp [slipDecode, slipByte, slipAppend, slipEnd, slipEsc, slipEscEnd, slipEscEsc, h]
    · simp [slipDecode, slipByte, slipAppend, *]

/-- A decoder byte step delivers at the delimiter in IN_FRAME and nowhere else. -/
theorem slipByte_delivered {cap : Nat} {d : DecoderState} {fbuf f : List Byte} {x : Byte}
    (h : (slipByte cap d fbuf x).delivered = some f) : d = .inFrame ∧ x = slipEnd ∧ f = fbuf := by
  have hap : ∀ y, (slipAppend cap fbuf y).delivered = none := fun y => by unfold slipAppend; split <;> rfl
  unfold slipByte at h
  cases d with
  | hunt => simp only at h; split at h <;> cases h
  | inFrame =>
    simp only at h
    split at h
    · cases h; exact ⟨rfl, ‹_›, rfl⟩
    · split at h
      · cases h
      · rw [hap] at h; cases h
  | escape =>
    simp only at h
    split at h
    · rw [hap] at h; cases h
    · split at h
      · rw [hap] at h; cases h
      · split at h <;> cases h

end Machine

end Sys2Proof
end

