-- ==== Sys2Proof/Laws/State.lean ====
section
/-! SUPPORT. One lemma per field per update of the state: later proofs read a field after an operation without
unfolding it. The operations on the ports are PortResults of these updates; Laws/Ops.lean says which. -/

namespace Sys2Proof.Machine

/-! ## After an event recorded -/

@[simp] theorem record_cfg (e : PortEvent) (s : State) : (record e s).cfg = s.cfg := rfl
@[simp] theorem record_rxq (e : PortEvent) (s : State) : (record e s).rxq = s.rxq := rfl
@[simp] theorem record_ovf (e : PortEvent) (s : State) : (record e s).ovf = s.ovf := rfl
@[simp] theorem record_ovfCnt (e : PortEvent) (s : State) : (record e s).ovfCnt = s.ovfCnt := rfl
@[simp] theorem record_dstate (e : PortEvent) (s : State) : (record e s).dstate = s.dstate := rfl
@[simp] theorem record_fbuf (e : PortEvent) (s : State) : (record e s).fbuf = s.fbuf := rfl
@[simp] theorem record_mode (e : PortEvent) (s : State) : (record e s).mode = s.mode := rfl
@[simp] theorem record_sess (e : PortEvent) (s : State) : (record e s).sess = s.sess := rfl
@[simp] theorem record_infl (e : PortEvent) (s : State) : (record e s).infl = s.infl := rfl
@[simp] theorem record_rs (e : PortEvent) (s : State) : (record e s).rs = s.rs := rfl
@[simp] theorem record_fatal (e : PortEvent) (s : State) : (record e s).fatal = s.fatal := rfl
@[simp] theorem record_transport (e : PortEvent) (s : State) : (record e s).transport = s.transport := rfl
@[simp] theorem record_waiting (e : PortEvent) (s : State) : (record e s).waiting = s.waiting := rfl
@[simp] theorem record_flash (e : PortEvent) (s : State) : (record e s).flash = s.flash := rfl
@[simp] theorem record_ram (e : PortEvent) (s : State) : (record e s).ram = s.ram := rfl
@[simp] theorem record_regs (e : PortEvent) (s : State) : (record e s).regs = s.regs := rfl
@[simp] theorem record_inbox (e : PortEvent) (s : State) : (record e s).inbox = s.inbox := rfl
@[simp] theorem record_answers (e : PortEvent) (s : State) : (record e s).answers = s.answers := rfl
@[simp] theorem record_draws (e : PortEvent) (s : State) : (record e s).draws = s.draws := rfl
@[simp] theorem record_silent (e : PortEvent) (s : State) : (record e s).silent = s.silent := rfl
@[simp] theorem record_trace (e : PortEvent) (s : State) : (record e s).trace = s.trace ++ [e] := rfl

/-! ## After an answer drawn -/

@[simp] theorem drawn_cfg (s : State) : (drawn s).cfg = s.cfg := rfl
@[simp] theorem drawn_rxq (s : State) : (drawn s).rxq = s.rxq := rfl
@[simp] theorem drawn_ovf (s : State) : (drawn s).ovf = s.ovf := rfl
@[simp] theorem drawn_ovfCnt (s : State) : (drawn s).ovfCnt = s.ovfCnt := rfl
@[simp] theorem drawn_dstate (s : State) : (drawn s).dstate = s.dstate := rfl
@[simp] theorem drawn_fbuf (s : State) : (drawn s).fbuf = s.fbuf := rfl
@[simp] theorem drawn_mode (s : State) : (drawn s).mode = s.mode := rfl
@[simp] theorem drawn_sess (s : State) : (drawn s).sess = s.sess := rfl
@[simp] theorem drawn_infl (s : State) : (drawn s).infl = s.infl := rfl
@[simp] theorem drawn_rs (s : State) : (drawn s).rs = s.rs := rfl
@[simp] theorem drawn_fatal (s : State) : (drawn s).fatal = s.fatal := rfl
@[simp] theorem drawn_transport (s : State) : (drawn s).transport = s.transport := rfl
@[simp] theorem drawn_waiting (s : State) : (drawn s).waiting = s.waiting := rfl
@[simp] theorem drawn_flash (s : State) : (drawn s).flash = s.flash := rfl
@[simp] theorem drawn_ram (s : State) : (drawn s).ram = s.ram := rfl
@[simp] theorem drawn_regs (s : State) : (drawn s).regs = s.regs := rfl
@[simp] theorem drawn_inbox (s : State) : (drawn s).inbox = s.inbox := rfl
@[simp] theorem drawn_answers (s : State) : (drawn s).answers = s.answers.tail := rfl
@[simp] theorem drawn_draws (s : State) : (drawn s).draws = s.draws + 1 := rfl
@[simp] theorem drawn_silent (s : State) : (drawn s).silent = s.silent := rfl
@[simp] theorem drawn_trace (s : State) : (drawn s).trace = s.trace := rfl

/-! ## After a transaction that is never answered -/

@[simp] theorem unanswered_cfg (q : PortRequest) (s : State) : (unanswered q s).cfg = s.cfg := rfl
@[simp] theorem unanswered_rxq (q : PortRequest) (s : State) : (unanswered q s).rxq = s.rxq := rfl
@[simp] theorem unanswered_ovf (q : PortRequest) (s : State) : (unanswered q s).ovf = s.ovf := rfl
@[simp] theorem unanswered_ovfCnt (q : PortRequest) (s : State) : (unanswered q s).ovfCnt = s.ovfCnt := rfl
@[simp] theorem unanswered_dstate (q : PortRequest) (s : State) : (unanswered q s).dstate = s.dstate := rfl
@[simp] theorem unanswered_fbuf (q : PortRequest) (s : State) : (unanswered q s).fbuf = s.fbuf := rfl
@[simp] theorem unanswered_mode (q : PortRequest) (s : State) : (unanswered q s).mode = s.mode := rfl
@[simp] theorem unanswered_sess (q : PortRequest) (s : State) : (unanswered q s).sess = s.sess := rfl
@[simp] theorem unanswered_infl (q : PortRequest) (s : State) : (unanswered q s).infl = s.infl := rfl
@[simp] theorem unanswered_rs (q : PortRequest) (s : State) : (unanswered q s).rs = s.rs := rfl
@[simp] theorem unanswered_fatal (q : PortRequest) (s : State) : (unanswered q s).fatal = s.fatal := rfl
@[simp] theorem unanswered_transport (q : PortRequest) (s : State) : (unanswered q s).transport = s.transport := rfl
@[simp] theorem unanswered_waiting (q : PortRequest) (s : State) : (unanswered q s).waiting = some q := rfl
@[simp] theorem unanswered_flash (q : PortRequest) (s : State) : (unanswered q s).flash = s.flash := rfl
@[simp] theorem unanswered_ram (q : PortRequest) (s : State) : (unanswered q s).ram = s.ram := rfl
@[simp] theorem unanswered_regs (q : PortRequest) (s : State) : (unanswered q s).regs = s.regs := rfl
@[simp] theorem unanswered_inbox (q : PortRequest) (s : State) : (unanswered q s).inbox = s.inbox := rfl
@[simp] theorem unanswered_answers (q : PortRequest) (s : State) : (unanswered q s).answers = s.answers := rfl
@[simp] theorem unanswered_draws (q : PortRequest) (s : State) : (unanswered q s).draws = s.draws := rfl
@[simp] theorem unanswered_silent (q : PortRequest) (s : State) : (unanswered q s).silent = s.silent := rfl
@[simp] theorem unanswered_trace (q : PortRequest) (s : State) :
    (unanswered q s).trace = s.trace ++ [.unanswered q] := rfl

/-! ## After an overflow -/

@[simp] theorem overflow_cfg (s : State) : (overflow s).cfg = s.cfg := rfl
@[simp] theorem overflow_rxq (s : State) : (overflow s).rxq = s.rxq := rfl
@[simp] theorem overflow_ovf (s : State) : (overflow s).ovf = true := rfl
@[simp] theorem overflow_ovfCnt (s : State) : (overflow s).ovfCnt = saturatingSucc s.ovfCnt := rfl
@[simp] theorem overflow_dstate (s : State) : (overflow s).dstate = s.dstate := rfl
@[simp] theorem overflow_fbuf (s : State) : (overflow s).fbuf = s.fbuf := rfl
@[simp] theorem overflow_mode (s : State) : (overflow s).mode = s.mode := rfl
@[simp] theorem overflow_sess (s : State) : (overflow s).sess = s.sess := rfl
@[simp] theorem overflow_infl (s : State) : (overflow s).infl = s.infl := rfl
@[simp] theorem overflow_rs (s : State) : (overflow s).rs = s.rs := rfl
@[simp] theorem overflow_fatal (s : State) : (overflow s).fatal = s.fatal := rfl
@[simp] theorem overflow_transport (s : State) : (overflow s).transport = s.transport := rfl
@[simp] theorem overflow_waiting (s : State) : (overflow s).waiting = s.waiting := rfl
@[simp] theorem overflow_flash (s : State) : (overflow s).flash = s.flash := rfl
@[simp] theorem overflow_ram (s : State) : (overflow s).ram = s.ram := rfl
@[simp] theorem overflow_regs (s : State) : (overflow s).regs = s.regs := rfl
@[simp] theorem overflow_inbox (s : State) : (overflow s).inbox = s.inbox := rfl
@[simp] theorem overflow_answers (s : State) : (overflow s).answers = s.answers := rfl
@[simp] theorem overflow_draws (s : State) : (overflow s).draws = s.draws := rfl
@[simp] theorem overflow_silent (s : State) : (overflow s).silent = s.silent := rfl
@[simp] theorem overflow_trace (s : State) : (overflow s).trace = s.trace := rfl

/-! ## After a fatal event -/

@[simp] theorem raiseFatal_cfg (c : FatalCause) (s : State) : (raiseFatal c s).cfg = s.cfg := rfl
@[simp] theorem raiseFatal_rxq (c : FatalCause) (s : State) : (raiseFatal c s).rxq = s.rxq := rfl
@[simp] theorem raiseFatal_ovf (c : FatalCause) (s : State) : (raiseFatal c s).ovf = s.ovf := rfl
@[simp] theorem raiseFatal_ovfCnt (c : FatalCause) (s : State) : (raiseFatal c s).ovfCnt = s.ovfCnt := rfl
@[simp] theorem raiseFatal_dstate (c : FatalCause) (s : State) : (raiseFatal c s).dstate = s.dstate := rfl
@[simp] theorem raiseFatal_fbuf (c : FatalCause) (s : State) : (raiseFatal c s).fbuf = s.fbuf := rfl
@[simp] theorem raiseFatal_mode (c : FatalCause) (s : State) : (raiseFatal c s).mode = .halted := rfl
@[simp] theorem raiseFatal_sess (c : FatalCause) (s : State) : (raiseFatal c s).sess = s.sess := rfl
@[simp] theorem raiseFatal_infl (c : FatalCause) (s : State) : (raiseFatal c s).infl = s.infl := rfl
@[simp] theorem raiseFatal_rs (c : FatalCause) (s : State) : (raiseFatal c s).rs = none := rfl
@[simp] theorem raiseFatal_fatal (c : FatalCause) (s : State) : (raiseFatal c s).fatal = c := rfl
@[simp] theorem raiseFatal_transport (c : FatalCause) (s : State) : (raiseFatal c s).transport = s.transport := rfl
@[simp] theorem raiseFatal_waiting (c : FatalCause) (s : State) : (raiseFatal c s).waiting = s.waiting := rfl
@[simp] theorem raiseFatal_flash (c : FatalCause) (s : State) : (raiseFatal c s).flash = s.flash := rfl
@[simp] theorem raiseFatal_ram (c : FatalCause) (s : State) : (raiseFatal c s).ram = s.ram := rfl
@[simp] theorem raiseFatal_regs (c : FatalCause) (s : State) : (raiseFatal c s).regs = s.regs := rfl
@[simp] theorem raiseFatal_inbox (c : FatalCause) (s : State) : (raiseFatal c s).inbox = s.inbox := rfl
@[simp] theorem raiseFatal_answers (c : FatalCause) (s : State) : (raiseFatal c s).answers = s.answers := rfl
@[simp] theorem raiseFatal_draws (c : FatalCause) (s : State) : (raiseFatal c s).draws = s.draws := rfl
@[simp] theorem raiseFatal_silent (c : FatalCause) (s : State) : (raiseFatal c s).silent = s.silent := rfl
@[simp] theorem raiseFatal_trace (c : FatalCause) (s : State) :
    (raiseFatal c s).trace = s.trace ++ [.fatalSignal c.code] := rfl

/-! ## After a session dropped -/

@[simp] theorem discardSession_cfg (s : State) : (discardSession s).cfg = s.cfg := rfl
@[simp] theorem discardSession_rxq (s : State) : (discardSession s).rxq = s.rxq := rfl
@[simp] theorem discardSession_ovf (s : State) : (discardSession s).ovf = s.ovf := rfl
@[simp] theorem discardSession_ovfCnt (s : State) : (discardSession s).ovfCnt = s.ovfCnt := rfl
@[simp] theorem discardSession_dstate (s : State) : (discardSession s).dstate = s.dstate := rfl
@[simp] theorem discardSession_fbuf (s : State) : (discardSession s).fbuf = s.fbuf := rfl
@[simp] theorem discardSession_mode (s : State) : (discardSession s).mode = s.mode := rfl
@[simp] theorem discardSession_sess (s : State) : (discardSession s).sess = { s.sess with kind := .none } := rfl
@[simp] theorem discardSession_infl (s : State) : (discardSession s).infl = none := rfl
@[simp] theorem discardSession_rs (s : State) : (discardSession s).rs = s.rs := rfl
@[simp] theorem discardSession_fatal (s : State) : (discardSession s).fatal = s.fatal := rfl
@[simp] theorem discardSession_transport (s : State) : (discardSession s).transport = s.transport := rfl
@[simp] theorem discardSession_waiting (s : State) : (discardSession s).waiting = s.waiting := rfl
@[simp] theorem discardSession_flash (s : State) : (discardSession s).flash = s.flash := rfl
@[simp] theorem discardSession_ram (s : State) : (discardSession s).ram = s.ram := rfl
@[simp] theorem discardSession_regs (s : State) : (discardSession s).regs = s.regs := rfl
@[simp] theorem discardSession_inbox (s : State) : (discardSession s).inbox = s.inbox := rfl
@[simp] theorem discardSession_answers (s : State) : (discardSession s).answers = s.answers := rfl
@[simp] theorem discardSession_draws (s : State) : (discardSession s).draws = s.draws := rfl
@[simp] theorem discardSession_silent (s : State) : (discardSession s).silent = s.silent := rfl
@[simp] theorem discardSession_trace (s : State) : (discardSession s).trace = s.trace := rfl

/-! ## After a data command accepted -/

@[simp] theorem accept_cfg (n : Nat) (d : List Byte) (s : State) : (accept n d s).cfg = s.cfg := rfl
@[simp] theorem accept_rxq (n : Nat) (d : List Byte) (s : State) : (accept n d s).rxq = s.rxq := rfl
@[simp] theorem accept_ovf (n : Nat) (d : List Byte) (s : State) : (accept n d s).ovf = s.ovf := rfl
@[simp] theorem accept_ovfCnt (n : Nat) (d : List Byte) (s : State) : (accept n d s).ovfCnt = s.ovfCnt := rfl
@[simp] theorem accept_dstate (n : Nat) (d : List Byte) (s : State) : (accept n d s).dstate = s.dstate := rfl
@[simp] theorem accept_fbuf (n : Nat) (d : List Byte) (s : State) : (accept n d s).fbuf = s.fbuf := rfl
@[simp] theorem accept_mode (n : Nat) (d : List Byte) (s : State) : (accept n d s).mode = s.mode := rfl
@[simp] theorem accept_sess (n : Nat) (d : List Byte) (s : State) : (accept n d s).sess = { s.sess with
      nextSeq := s.sess.nextSeq + 1
      written := s.sess.written + BitVec.ofNat 32 n
      rcsum := s.sess.rcsum ^^^ xorBytes d } := rfl
@[simp] theorem accept_infl (n : Nat) (d : List Byte) (s : State) : (accept n d s).infl = s.infl := rfl
@[simp] theorem accept_rs (n : Nat) (d : List Byte) (s : State) : (accept n d s).rs = s.rs := rfl
@[simp] theorem accept_fatal (n : Nat) (d : List Byte) (s : State) : (accept n d s).fatal = s.fatal := rfl
@[simp] theorem accept_transport (n : Nat) (d : List Byte) (s : State) : (accept n d s).transport = s.transport := rfl
@[simp] theorem accept_waiting (n : Nat) (d : List Byte) (s : State) : (accept n d s).waiting = s.waiting := rfl
@[simp] theorem accept_flash (n : Nat) (d : List Byte) (s : State) : (accept n d s).flash = s.flash := rfl
@[simp] theorem accept_ram (n : Nat) (d : List Byte) (s : State) : (accept n d s).ram = s.ram := rfl
@[simp] theorem accept_regs (n : Nat) (d : List Byte) (s : State) : (accept n d s).regs = s.regs := rfl
@[simp] theorem accept_inbox (n : Nat) (d : List Byte) (s : State) : (accept n d s).inbox = s.inbox := rfl
@[simp] theorem accept_answers (n : Nat) (d : List Byte) (s : State) : (accept n d s).answers = s.answers := rfl
@[simp] theorem accept_draws (n : Nat) (d : List Byte) (s : State) : (accept n d s).draws = s.draws := rfl
@[simp] theorem accept_silent (n : Nat) (d : List Byte) (s : State) : (accept n d s).silent = s.silent := rfl
@[simp] theorem accept_trace (n : Nat) (d : List Byte) (s : State) : (accept n d s).trace = s.trace := rfl

/-! ## After output counted -/

@[simp] theorem advanceWritten_cfg (n : Nat) (s : State) : (advanceWritten n s).cfg = s.cfg := rfl
@[simp] theorem advanceWritten_rxq (n : Nat) (s : State) : (advanceWritten n s).rxq = s.rxq := rfl
@[simp] theorem advanceWritten_ovf (n : Nat) (s : State) : (advanceWritten n s).ovf = s.ovf := rfl
@[simp] theorem advanceWritten_ovfCnt (n : Nat) (s : State) : (advanceWritten n s).ovfCnt = s.ovfCnt := rfl
@[simp] theorem advanceWritten_dstate (n : Nat) (s : State) : (advanceWritten n s).dstate = s.dstate := rfl
@[simp] theorem advanceWritten_fbuf (n : Nat) (s : State) : (advanceWritten n s).fbuf = s.fbuf := rfl
@[simp] theorem advanceWritten_mode (n : Nat) (s : State) : (advanceWritten n s).mode = s.mode := rfl
@[simp] theorem advanceWritten_sess (n : Nat) (s : State) :
    (advanceWritten n s).sess = { s.sess with written := s.sess.written + BitVec.ofNat 32 n } := rfl
@[simp] theorem advanceWritten_infl (n : Nat) (s : State) : (advanceWritten n s).infl = s.infl := rfl
@[simp] theorem advanceWritten_rs (n : Nat) (s : State) : (advanceWritten n s).rs = s.rs := rfl
@[simp] theorem advanceWritten_fatal (n : Nat) (s : State) : (advanceWritten n s).fatal = s.fatal := rfl
@[simp] theorem advanceWritten_transport (n : Nat) (s : State) : (advanceWritten n s).transport = s.transport := rfl
@[simp] theorem advanceWritten_waiting (n : Nat) (s : State) : (advanceWritten n s).waiting = s.waiting := rfl
@[simp] theorem advanceWritten_flash (n : Nat) (s : State) : (advanceWritten n s).flash = s.flash := rfl
@[simp] theorem advanceWritten_ram (n : Nat) (s : State) : (advanceWritten n s).ram = s.ram := rfl
@[simp] theorem advanceWritten_regs (n : Nat) (s : State) : (advanceWritten n s).regs = s.regs := rfl
@[simp] theorem advanceWritten_inbox (n : Nat) (s : State) : (advanceWritten n s).inbox = s.inbox := rfl
@[simp] theorem advanceWritten_answers (n : Nat) (s : State) : (advanceWritten n s).answers = s.answers := rfl
@[simp] theorem advanceWritten_draws (n : Nat) (s : State) : (advanceWritten n s).draws = s.draws := rfl
@[simp] theorem advanceWritten_silent (n : Nat) (s : State) : (advanceWritten n s).silent = s.silent := rfl
@[simp] theorem advanceWritten_trace (n : Nat) (s : State) : (advanceWritten n s).trace = s.trace := rfl

/-! ## After a reset requested -/

@[simp] theorem reboot_cfg (s : State) : (reboot s).cfg = s.cfg := rfl
@[simp] theorem reboot_rxq (s : State) : (reboot s).rxq = s.rxq := rfl
@[simp] theorem reboot_ovf (s : State) : (reboot s).ovf = s.ovf := rfl
@[simp] theorem reboot_ovfCnt (s : State) : (reboot s).ovfCnt = s.ovfCnt := rfl
@[simp] theorem reboot_dstate (s : State) : (reboot s).dstate = s.dstate := rfl
@[simp] theorem reboot_fbuf (s : State) : (reboot s).fbuf = s.fbuf := rfl
@[simp] theorem reboot_mode (s : State) : (reboot s).mode = .rebooting := rfl
@[simp] theorem reboot_sess (s : State) : (reboot s).sess = s.sess := rfl
@[simp] theorem reboot_infl (s : State) : (reboot s).infl = s.infl := rfl
@[simp] theorem reboot_rs (s : State) : (reboot s).rs = s.rs := rfl
@[simp] theorem reboot_fatal (s : State) : (reboot s).fatal = s.fatal := rfl
@[simp] theorem reboot_transport (s : State) : (reboot s).transport = s.transport := rfl
@[simp] theorem reboot_waiting (s : State) : (reboot s).waiting = s.waiting := rfl
@[simp] theorem reboot_flash (s : State) : (reboot s).flash = s.flash := rfl
@[simp] theorem reboot_ram (s : State) : (reboot s).ram = s.ram := rfl
@[simp] theorem reboot_regs (s : State) : (reboot s).regs = s.regs := rfl
@[simp] theorem reboot_inbox (s : State) : (reboot s).inbox = s.inbox := rfl
@[simp] theorem reboot_answers (s : State) : (reboot s).answers = s.answers := rfl
@[simp] theorem reboot_draws (s : State) : (reboot s).draws = s.draws := rfl
@[simp] theorem reboot_silent (s : State) : (reboot s).silent = s.silent := rfl
@[simp] theorem reboot_trace (s : State) : (reboot s).trace = s.trace ++ [.resetReq] := rfl

/-! ## After control handed over -/

@[simp] theorem finish_cfg (w : Word) (s : State) : (finish w s).cfg = s.cfg := rfl
@[simp] theorem finish_rxq (w : Word) (s : State) : (finish w s).rxq = s.rxq := rfl
@[simp] theorem finish_ovf (w : Word) (s : State) : (finish w s).ovf = s.ovf := rfl
@[simp] theorem finish_ovfCnt (w : Word) (s : State) : (finish w s).ovfCnt = s.ovfCnt := rfl
@[simp] theorem finish_dstate (w : Word) (s : State) : (finish w s).dstate = s.dstate := rfl
@[simp] theorem finish_fbuf (w : Word) (s : State) : (finish w s).fbuf = s.fbuf := rfl
@[simp] theorem finish_mode (w : Word) (s : State) : (finish w s).mode = .executed := rfl
@[simp] theorem finish_sess (w : Word) (s : State) : (finish w s).sess = s.sess := rfl
@[simp] theorem finish_infl (w : Word) (s : State) : (finish w s).infl = s.infl := rfl
@[simp] theorem finish_rs (w : Word) (s : State) : (finish w s).rs = s.rs := rfl
@[simp] theorem finish_fatal (w : Word) (s : State) : (finish w s).fatal = s.fatal := rfl
@[simp] theorem finish_transport (w : Word) (s : State) : (finish w s).transport = s.transport := rfl
@[simp] theorem finish_waiting (w : Word) (s : State) : (finish w s).waiting = s.waiting := rfl
@[simp] theorem finish_flash (w : Word) (s : State) : (finish w s).flash = s.flash := rfl
@[simp] theorem finish_ram (w : Word) (s : State) : (finish w s).ram = s.ram := rfl
@[simp] theorem finish_regs (w : Word) (s : State) : (finish w s).regs = s.regs := rfl
@[simp] theorem finish_inbox (w : Word) (s : State) : (finish w s).inbox = s.inbox := rfl
@[simp] theorem finish_answers (w : Word) (s : State) : (finish w s).answers = s.answers := rfl
@[simp] theorem finish_draws (w : Word) (s : State) : (finish w s).draws = s.draws := rfl
@[simp] theorem finish_silent (w : Word) (s : State) : (finish w s).silent = s.silent := rfl
@[simp] theorem finish_trace (w : Word) (s : State) : (finish w s).trace = s.trace ++ [.execSignal w] := rfl

end Sys2Proof.Machine
end

