-- ==== Sys2Proof/Laws/Storage.lean ====
section
/-! SUPPORT. What the storage operations do, said once: the canonical form is kept, and what each address reads as
afterwards. -/

namespace Sys2Proof.Machine

/-! ## The cells -/

/-- The canonical form of a list of cells, as a proposition. -/
def CellsOk {w : Nat} (fill : BitVec w) (l : List (Nat × BitVec w)) : Prop :=
  l.Pairwise (fun x y => x.1 < y.1) ∧ ∀ c ∈ l, c.2 ≠ fill

theorem Store.wf_iff {w : Nat} {fill : BitVec w} (m : Store w fill) : m.wf = true ↔ CellsOk fill m.cells := by
  simp [Store.wf, CellsOk]

theorem Store.within_iff {w : Nat} {fill : BitVec w} (m : Store w fill) (n : Nat) :
    m.within n = true ↔ ∀ c ∈ m.cells, c.1 < n := by
  simp [Store.within]

/-- A stored cell is one of the old cells or the new one. -/
theorem mem_setCells {w : Nat} {fill : BitVec w} {l : List (Nat × BitVec w)} {a : Nat} {v : BitVec w}
    {c : Nat × BitVec w} (h : c ∈ setCells fill l a v) : c ∈ l ∨ (c = (a, v) ∧ v ≠ fill) := by
  induction l with
  | nil =>
    unfold setCells at h
    split at h <;> simp_all
  | cons p r ih =>
    obtain ⟨k, x⟩ := p
    unfold setCells at h
    split at h
    · split at h
      · exact .inl h
      · rcases List.mem_cons.mp h with h | h
        · exact .inr ⟨h, ‹_›⟩
        · exact .inl h
    · split at h
      · split at h
        · exact .inl (List.mem_cons_of_mem _ h)
        · rcases List.mem_cons.mp h with h | h
          · exact .inr ⟨h, ‹_›⟩
          · exact .inl (List.mem_cons_of_mem _ h)
      · rcases List.mem_cons.mp h with h | h
        · exact .inl (h ▸ List.mem_cons_self)
        · rcases ih h with h | h
          · exact .inl (List.mem_cons_of_mem _ h)
          · exact .inr h

theorem setCells_ok {w : Nat} {fill : BitVec w} {l : List (Nat × BitVec w)} (h : CellsOk fill l) (a : Nat)
    (v : BitVec w) : CellsOk fill (setCells fill l a v) := by
  refine ⟨?_, fun c hc => ?_⟩
  · obtain ⟨h, -⟩ := h
    induction l with
    | nil => unfold setCells; split <;> simp
    | cons p r ih =>
      obtain ⟨k, x⟩ := p
      obtain ⟨hk, hr⟩ := List.pairwise_cons.mp h
      unfold setCells
      split
      · split
        · exact h
        · refine List.pairwise_cons.mpr ⟨fun c hc => ?_, h⟩
          rcases List.mem_cons.mp hc with hc | hc
          · subst hc; assumption
          · exact lt_trans ‹a < k› (hk c hc)
      · split
        · split
          · exact hr
          · exact List.pairwise_cons.mpr ⟨fun c hc => by subst a; exact hk c hc, hr⟩
        · refine List.pairwise_cons.mpr ⟨fun c hc => ?_, ih hr⟩
          rcases mem_setCells hc with hc | ⟨hc, -⟩
          · exact hk c hc
          · subst hc; simp only; omega
  · rcases mem_setCells hc with hc | ⟨rfl, hv⟩
    · exact h.2 c hc
    · exact hv

/-- An address below every listed one is not listed. -/
theorem readCells_of_lt {w : Nat} {fill : BitVec w} {l : List (Nat × BitVec w)} {b : Nat}
    (h : ∀ c ∈ l, b < c.1) : readCells fill l b = fill := by
  induction l with
  | nil => rfl
  | cons p r ih =>
    obtain ⟨k, x⟩ := p
    have hk : b < k := h (k, x) List.mem_cons_self
    rw [readCells, if_neg (by omega), ih fun c hc => h c (List.mem_cons_of_mem _ hc)]

theorem readCells_setCells {w : Nat} {fill : BitVec w} {l : List (Nat × BitVec w)} (h : CellsOk fill l) (a : Nat)
    (v : BitVec w) (b : Nat) : readCells fill (setCells fill l a v) b = if b = a then v else readCells fill l b := by
  obtain ⟨h, -⟩ := h
  induction l with
  | nil =>
    unfold setCells
    split
    · subst v; split <;> rfl
    · simp only [readCells, eq_comm]
  | cons p r ih =>
    obtain ⟨k, x⟩ := p
    obtain ⟨hk, hr⟩ := List.pairwise_cons.mp h
    unfold setCells
    split
    · have hlow : ∀ c ∈ (k, x) :: r, a < c.1 := fun c hc => by
        rcases List.mem_cons.mp hc with hc | hc
        · subst hc; assumption
        · exact lt_trans ‹a < k› (hk c hc)
      split
      · subst v
        split
        · subst b; exact readCells_of_lt hlow
        · rfl
      · by_cases hb : b = a
        · simp [readCells, hb]
        · simp [readCells, hb, Ne.symm hb]
    · split
      · subst a
        split
        · subst v
          by_cases hb : b = k
          · subst hb; rw [if_pos rfl, readCells_of_lt hk]
          · simp [readCells, hb, Ne.symm hb]
        · by_cases hb : b = k
          · simp [readCells, hb]
          · simp [readCells, hb, Ne.symm hb]
      · by_cases hb : b = k
        · subst hb
          rw [readCells, if_pos rfl, if_neg (by omega), readCells, if_pos rfl]
        · rw [readCells, if_neg (Ne.symm hb), ih hr, readCells, if_neg (Ne.symm hb)]

theorem readCells_filter {w : Nat} {fill : BitVec w} (p : Nat → Bool) (l : List (Nat × BitVec w)) (b : Nat) :
    readCells fill (l.filter fun c => p c.1) b = if p b then readCells fill l b else fill := by
  induction l with
  | nil => simp [readCells]
  | cons q r ih =>
    obtain ⟨k, x⟩ := q
    by_cases hk : p k <;> by_cases hb : k = b
    · subst hb; simp [hk, readCells]
    · simp [hk, hb, readCells, ih]
    · subst hb; simp [hk, ih]
    · simp [hk, hb, readCells, ih]

/-! ## One value -/

theorem Store.read_write {w : Nat} {fill : BitVec w} {m : Store w fill} (h : m.wf = true) (a : Nat) (v : BitVec w)
    (b : Nat) : (m.write a v).read b = if b = a then v else m.read b :=
  readCells_setCells ((Store.wf_iff m).mp h) a v b

theorem Store.wf_write {w : Nat} {fill : BitVec w} {m : Store w fill} (h : m.wf = true) (a : Nat) (v : BitVec w) :
    (m.write a v).wf = true :=
  (Store.wf_iff _).mpr (setCells_ok ((Store.wf_iff m).mp h) a v)

theorem Store.within_write {w : Nat} {fill : BitVec w} {m : Store w fill} {n a : Nat} (h : m.within n = true)
    (ha : a < n) (v : BitVec w) : (m.write a v).within n = true := by
  rw [Store.within_iff] at h ⊢
  intro c hc
  rcases mem_setCells hc with hc | ⟨rfl, -⟩
  · exact h c hc
  · exact ha

/-! ## Erasing -/

theorem Store.read_clear {w : Nat} {fill : BitVec w} (m : Store w fill) (a n b : Nat) :
    (m.clear a n).read b = if a ≤ b ∧ b < a + n then fill else m.read b := by
  have h := readCells_filter (fill := fill) (fun k => decide (k < a) || decide (a + n ≤ k)) m.cells b
  rw [Store.read, Store.clear, h]
  by_cases hb : a ≤ b ∧ b < a + n
  · rw [if_pos hb, if_neg (by simp; omega)]
  · rw [if_neg hb, if_pos (by simp; omega)]; rfl

theorem Store.wf_clear {w : Nat} {fill : BitVec w} {m : Store w fill} (h : m.wf = true) (a n : Nat) :
    (m.clear a n).wf = true := by
  rw [Store.wf_iff] at h ⊢
  exact ⟨h.1.filter _, fun c hc => h.2 c (List.mem_filter.mp hc).1⟩

theorem Store.within_clear {w : Nat} {fill : BitVec w} {m : Store w fill} {k : Nat} (h : m.within k = true)
    (a n : Nat) : (m.clear a n).within k = true := by
  rw [Store.within_iff] at h ⊢
  exact fun c hc => h c (List.mem_filter.mp hc).1

@[simp] theorem Store.read_clearAll {w : Nat} {fill : BitVec w} (m : Store w fill) (b : Nat) :
    m.clearAll.read b = fill := rfl

@[simp] theorem Store.wf_clearAll {w : Nat} {fill : BitVec w} (m : Store w fill) : m.clearAll.wf = true := rfl

@[simp] theorem Store.within_clearAll {w : Nat} {fill : BitVec w} (m : Store w fill) (n : Nat) :
    m.clearAll.within n = true := rfl

/-! ## Byte strings -/

theorem Store.wf_writeBytes {fill : Byte} {m : Memory fill} (h : m.wf = true) (a : Nat) (b : List Byte) :
    (m.writeBytes a b).wf = true := by
  induction b generalizing m a with
  | nil => exact h
  | cons x r ih => exact ih (Store.wf_write h a x) (a + 1)

theorem Store.wf_program {fill : Byte} {m : Memory fill} (h : m.wf = true) (a : Nat) (b : List Byte) :
    (m.program a b).wf = true := by
  induction b generalizing m a with
  | nil => exact h
  | cons x r ih => exact ih (Store.wf_write h a _) (a + 1)

theorem Store.within_writeBytes {fill : Byte} {m : Memory fill} {n : Nat} (h : m.within n = true) {a : Nat}
    {b : List Byte} (hb : a + b.length ≤ n) : (m.writeBytes a b).within n = true := by
  induction b generalizing m a with
  | nil => exact h
  | cons x r ih =>
    rw [List.length_cons] at hb
    exact ih (Store.within_write h (by omega) x) (by omega)

theorem Store.within_program {fill : Byte} {m : Memory fill} {n : Nat} (h : m.within n = true) {a : Nat}
    {b : List Byte} (hb : a + b.length ≤ n) : (m.program a b).within n = true := by
  induction b generalizing m a with
  | nil => exact h
  | cons x r ih =>
    rw [List.length_cons] at hb
    exact ih (Store.within_write h (by omega) _) (by omega)

/-- Where a byte string was written, its bytes; elsewhere the old ones. -/
theorem Store.read_writeBytes {fill : Byte} {m : Memory fill} (h : m.wf = true) (a : Nat) (b : List Byte) (k : Nat) :
    (m.writeBytes a b).read k = if a ≤ k ∧ k < a + b.length then b.getD (k - a) 0 else m.read k := by
  induction b generalizing m a with
  | nil => simp [Store.writeBytes]
  | cons x r ih =>
    rw [Store.writeBytes, ih (Store.wf_write h a x), Store.read_write h, List.length_cons]
    rcases Nat.lt_trichotomy k a with hk | hk | hk
    · rw [if_neg (by omega), if_neg (by omega), if_neg (by omega)]
    · subst hk; rw [if_neg (by omega), if_pos rfl, if_pos (by omega)]; simp
    · by_cases hr : k < a + 1 + r.length
      · rw [if_pos (by omega), if_pos (by omega), show k - a = (k - (a + 1)) + 1 by omega, List.getD_cons_succ]
      · rw [if_neg (by omega), if_neg (by omega), if_neg (by omega)]

/-- Where a byte string was programmed, the old bytes ANDed with it; elsewhere the old ones. -/
theorem Store.read_program {fill : Byte} {m : Memory fill} (h : m.wf = true) (a : Nat) (b : List Byte) (k : Nat) :
    (m.program a b).read k = if a ≤ k ∧ k < a + b.length then m.read k &&& b.getD (k - a) 0 else m.read k := by
  induction b generalizing m a with
  | nil => simp [Store.program]
  | cons x r ih =>
    rw [Store.program, ih (Store.wf_write h a _), Store.read_write h, List.length_cons]
    rcases Nat.lt_trichotomy k a with hk | hk | hk
    · rw [if_neg (by omega), if_neg (by omega), if_neg (by omega)]
    · subst hk; rw [if_neg (by omega), if_pos rfl, if_pos (by omega)]; simp
    · have hka : k ≠ a := by omega
      simp only [if_neg hka]
      by_cases hr : k < a + 1 + r.length
      · rw [if_pos (by omega), if_pos (by omega), show k - a = (k - (a + 1)) + 1 by omega, List.getD_cons_succ]
      · rw [if_neg (by omega), if_neg (by omega)]

@[simp] theorem Store.readBytes_length {fill : Byte} (m : Memory fill) (a n : Nat) :
    (m.readBytes a n).length = n := by
  simp [Store.readBytes]

/-! ## At reset -/

theorem reset_flash_wf : State.reset.flash.wf = true := rfl

theorem reset_ram_wf : State.reset.ram.wf = true := rfl

theorem reset_regs_wf : State.reset.regs.wf = true := rfl

end Sys2Proof.Machine
end

