-- ==== Sys2Proof/Laws/Ops.lean ====
section
/-! SUPPORT. For each shared operation, one lemma that says everything it can do; later proofs cite these and do not
unfold the operations. -/

namespace Sys2Proof.Machine

/-! ## The receive FIFO -/

/-- A push queues all of it, or queues nothing and counts one overflow. -/
theorem pushBytes_cases (b : List Byte) (s : State) :
    (s.rxq.length + b.length ≤ s.cfg.rxqCap ∧ pushBytes b s = { s with rxq := s.rxq ++ b })
      ∨ (s.cfg.rxqCap < s.rxq.length + b.length
          ∧ pushBytes b s = { s with ovf := true, ovfCnt := saturatingSucc s.ovfCnt }) := by
  unfold pushBytes
  split
  · exact .inl ⟨‹_›, rfl⟩
  · exact .inr ⟨by omega, rfl⟩

theorem saturatingSucc_toNat (n : Word) : (saturatingSucc n).toNat = min (n.toNat + 1) (2 ^ 32 - 1) := by
  unfold saturatingSucc
  split
  · subst n; rfl
  · have : n.toNat ≠ 0xFFFFFFFF := fun h =>
      ‹¬n = 0xFFFFFFFF› (BitVec.eq_of_toNat_eq (y := 0xFFFFFFFF#32) h)
    have := n.isLt
    rw [BitVec.toNat_add]
    show (n.toNat + 1) % 2 ^ 32 = _
    omega

theorem saturatingSucc_ne_zero (n : Word) : saturatingSucc n ≠ 0 := fun h => by
  have := congrArg BitVec.toNat h
  rw [saturatingSucc_toNat] at this
  simp at this

/-! ## The ports -/

@[simp] theorem PortResult.andThen_ok {α : Type} (a : α) (s : State) (k : α → State → State) :
    (PortResult.ok a s).andThen k = k a s := rfl
@[simp] theorem PortResult.andThen_fault {α : Type} (s : State) (k : α → State → State) :
    (PortResult.fault s).andThen k = raiseFatal .flashFault s := rfl
@[simp] theorem PortResult.andThen_silent {α : Type} (s : State) (k : α → State → State) :
    (PortResult.silent s).andThen k = s := rfl
@[simp] theorem PortResult.bind_ok {α β : Type} (a : α) (s : State) (k : α → State → PortResult β) :
    (PortResult.ok a s).bind k = k a s := rfl
@[simp] theorem PortResult.bind_fault {α β : Type} (s : State) (k : α → State → PortResult β) :
    (PortResult.fault s).bind k = .fault s := rfl
@[simp] theorem PortResult.bind_silent {α β : Type} (s : State) (k : α → State → PortResult β) :
    (PortResult.silent s).bind k = .silent s := rfl

/-- Transactions in a row, and then the rest of the rule. -/
@[simp] theorem PortResult.bind_andThen {α β : Type} (r : PortResult α) (f : α → State → PortResult β)
    (k : β → State → State) : (r.bind f).andThen k = r.andThen fun a s => (f a s).andThen k := by
  cases r <;> rfl

/-- A transaction is answered, or MAIN waits for its answer without end and the rule is cut off. -/
theorem request_andThen {α : Type} (q : PortRequest) (s : State) (r : PortResult α) (k : α → State → State) :
    (request q s r).andThen k = if portSilent s then unanswered q s else r.andThen k := by
  unfold request
  split <;> rfl

/-- What a FLASH transaction comes to: no answer, ever; halted with the answer drawn and nothing else done; or the rest
of the command in the state the transaction left. -/
theorem flashErase_andThen (a n : Nat) (s : State) (k : Unit → State → State) :
    (flashErase a n s).andThen k
      = if portSilent s then unanswered (.flashErase a n) s
        else if nextAnswer s = .fault then raiseFatal .flashFault (record (.flashErase a n false) (drawn s))
        else k () (record (.flashErase a n true) { drawn s with flash := s.flash.clear a n }) := by
  rw [flashErase, request_andThen]
  cases h : nextAnswer s <;> rfl

theorem flashEraseChip_andThen (s : State) (k : Unit → State → State) :
    (flashEraseChip s).andThen k
      = if portSilent s then unanswered .flashEraseChip s
        else if nextAnswer s = .fault then raiseFatal .flashFault (record (.flashEraseChip false) (drawn s))
        else k () (record (.flashEraseChip true) { drawn s with flash := s.flash.clearAll }) := by
  rw [flashEraseChip, request_andThen]
  cases h : nextAnswer s <;> rfl

theorem flashWrite_andThen (a : Nat) (b : List Byte) (s : State) (k : Unit → State → State) :
    (flashWrite a b s).andThen k
      = if portSilent s then unanswered (.flashWrite a b) s
        else if nextAnswer s = .fault then raiseFatal .flashFault (record (.flashWrite a b false) (drawn s))
        else k () (record (.flashWrite a b true) { drawn s with flash := s.flash.program a b }) := by
  rw [flashWrite, request_andThen]
  cases h : nextAnswer s <;> rfl

theorem flashRead_andThen (a n : Nat) (s : State) (k : List Byte → State → State) :
    (flashRead a n s).andThen k
      = if portSilent s then unanswered (.flashRead a n) s
        else if nextAnswer s = .fault then raiseFatal .flashFault (record (.flashRead a n none) (drawn s))
        else k (answerBytes s a n (nextAnswer s))
          (record (.flashRead a n (some (answerBytes s a n (nextAnswer s)))) (drawn s)) := by
  rw [flashRead, request_andThen]
  cases h : nextAnswer s <;> rfl

/-- What a transaction on a port without faults comes to: no answer, ever, or the rest of the rule. -/
theorem memWrite_andThen (a : Nat) (b : List Byte) (s : State) (k : Unit → State → State) :
    (memWrite a b s).andThen k
      = if portSilent s then unanswered (.memWrite a b) s
        else k () (record (.memWrite a b) { s with ram := s.ram.writeBytes a (b.take (2 ^ 32 - a)) }) :=
  request_andThen ..

theorem regRead_andThen (a : Nat) (s : State) (k : Word → State → State) :
    (regRead a s).andThen k
      = if portSilent s then unanswered (.regRead a) s
        else k (answerWord s a (nextAnswer s)) (record (.regRead a (answerWord s a (nextAnswer s))) (drawn s)) :=
  request_andThen ..

theorem regWrite_andThen (a : Nat) (v : Word) (s : State) (k : Unit → State → State) :
    (regWrite a v s).andThen k
      = if portSilent s then unanswered (.regWrite a v) s
        else k () (record (.regWrite a v) { s with regs := s.regs.write a v }) :=
  request_andThen ..

theorem delay_andThen (us : Word) (s : State) (k : Unit → State → State) :
    (delay us s).andThen k
      = if portSilent s then unanswered (.delay us) s else k () (record (.delay us) s) :=
  request_andThen ..

theorem emit_andThen (p : List Byte) (s : State) (k : Unit → State → State) :
    (emit p s).andThen k
      = if portSilent s then unanswered (.tx (slipEncode p)) s else k () (s.sending p) :=
  request_andThen ..

/-- The first of the transactions that are answered. -/
theorem portSilent_eq_false {s : State} {k : Nat} (h : s.portsAnswer (k + 1)) : portSilent s = false := by
  have := h 0 (by omega)
  simpa [portSilent] using this

/-- The transactions after it. -/
theorem portsAnswer_after {s t : State} {k : Nat} {e : PortEvent} (h : s.portsAnswer (k + 1))
    (ht : t.trace = s.trace ++ [e]) (hs : t.silent = s.silent) : t.portsAnswer k := fun j hj => by
  have := h (j + 1) (by omega)
  rw [ht, hs, List.length_append, List.length_singleton]
  rwa [show s.trace.length + 1 + j = s.trace.length + (j + 1) by omega]

/-- Fewer transactions are answered too. -/
theorem portsAnswer_le {s : State} {j k : Nat} (h : s.portsAnswer k) (hjk : j ≤ k) : s.portsAnswer j :=
  fun i hi => h i (by omega)

@[simp] theorem answerBytes_length (s : State) (a n : Nat) (x : Answer) : (answerBytes s a n x).length = n := by
  cases x <;> simp [answerBytes]

@[simp] theorem answerBytes_stored (s : State) (a n : Nat) : answerBytes s a n .stored = s.flash.readBytes a n := rfl

theorem nextAnswer_eq_answerAt (s : State) : nextAnswer s = answerAt s 0 := by
  unfold nextAnswer answerAt
  cases s.answers <;> rfl

/-- The answers after one draw are those after the first. -/
theorem answerAt_drawn (s : State) (j : Nat) : answerAt (drawn s) j = answerAt s (j + 1) := by
  unfold answerAt
  rw [drawn_answers, drawn_draws, List.getElem?_tail, show s.draws + 1 + j = s.draws + (j + 1) by omega]

/-! ## Responses -/

@[simp] theorem successPacket_zero (op : Byte) : successPacket op 0#32 [] = okPacket op := rfl

@[simp] theorem failurePacket_eq (op code : Byte) : failurePacket op code = failPacket op code := by
  simp [failurePacket, responsePacket, failPacket, put16, put32]

/-- The last frame of a rule is sent, or MAIN waits for it to leave without end. -/
theorem ack_eq (c : Opcode) (s : State) :
    ack c s = if portSilent s then unanswered (.tx (slipEncode (okPacket (s.cfg.opcodes.code c)))) s else s.acking c :=
  emit_andThen ..

theorem raiseFail_eq (op : Byte) (f : Failure) (s : State) :
    raiseFail op f s = if portSilent s then unanswered (.tx (slipEncode (failPacket op (f.code s.cfg.errs)))) s
      else s.sending (failPacket op (f.code s.cfg.errs)) := by
  rw [← failurePacket_eq]
  exact emit_andThen ..

theorem fail_eq (c : Opcode) (f : Failure) (s : State) :
    fail c f s = if portSilent s
      then unanswered (.tx (slipEncode (failPacket (s.cfg.opcodes.code c) (f.code s.cfg.errs)))) s
      else s.failing c f :=
  raiseFail_eq ..

/-- Where the ports answer, a success response is sent and nothing else. -/
theorem ack_eq_acking {s : State} (c : Opcode) (h : s.portsAnswer 1) : ack c s = s.acking c := by
  rw [ack_eq, portSilent_eq_false h]; rfl

/-- Where the ports answer, a failure response is sent and nothing else. -/
theorem fail_eq_failing {s : State} (c : Opcode) (f : Failure) (h : s.portsAnswer 1) : fail c f s = s.failing c f := by
  rw [fail_eq, portSilent_eq_false h]; rfl

/-- Every success packet is a response to its opcode. -/
theorem successPacket_isResponse (op : Byte) (v : Word) (b : List Byte) : IsResponse op (successPacket op v b) :=
  .inl ⟨v, b, by simp [successPacket, responsePacket]⟩

theorem failurePacket_isResponse (op code : Byte) : IsResponse op (failurePacket op code) := .inr ⟨code, failurePacket_eq op code⟩

/-! ## The checks of a command -/

theorem inFlash_iff (s : State) (a n : Nat) : inFlash s.cfg a n = true ↔ InFlash s a n := by
  simp [inFlash, InFlash]

/-- The checks of a BEGIN pass exactly when R202, R213 and R230 say so. -/
theorem beginChecks_eq_none (region : Nat → Nat → Bool) (p : List Byte) (s : State) :
    beginChecks s.cfg region p = none ↔ BeginAccepted (fun a n => region a n = true) p s := by
  unfold beginChecks
  constructor
  · intro h
    split at h
    · cases h
    · split at h
      · cases h
      · rename_i h1 h2
        simp only [Bool.or_eq_true, decide_eq_true_eq, not_or] at h2
        split at h
        · exact ⟨not_not.mp h1, by omega, ‹_›⟩
        · cases h
  · intro h
    have h1 := h.block
    rw [if_neg (not_not.mpr h.shape), if_neg (by simp; omega), if_pos h.region]

/-- The checks of a data command pass exactly when R205 says so. -/
theorem dataChecks_eq_none (kind : SessionKind) (v : Word) (p : List Byte) (s : State) :
    dataChecks kind v p s = none ↔ DataAccepted kind v p s := by
  have hl : dataLen p = (wordAt p 0).toNat := rfl
  unfold dataChecks
  constructor
  · intro h
    split at h
    · cases h
    split at h
    · cases h
    split at h
    · cases h
    split at h
    · cases h
    split at h
    · cases h
    split at h
    · cases h
    rename_i h1 h2 h3 h4 h5 h6
    simp only [Bool.or_eq_true, decide_eq_true_eq, not_or, not_not, ne_eq] at h1
    simp only [Bool.and_eq_true, decide_eq_true_eq, not_and] at h6
    exact ⟨⟨by omega, by omega⟩, not_not.mp h2, by omega, not_not.mp h4, not_not.mp h5,
      fun hk hd => h6 ⟨hk, by omega⟩⟩
  · intro h
    have h1 := h.shape.1
    have h2 := h.shape.2
    have h3 := h.size
    have e1 : ¬(decide (p.length < 16) || decide (p.length ≠ 16 + dataLen p)) = true := by
      simp only [Bool.or_eq_true, decide_eq_true_eq, ne_eq]; omega
    have e3 : ¬s.sess.bsize.toNat < dataLen p := by omega
    have e4 : ¬dataSeq p ≠ s.sess.nextSeq := not_not.mpr h.order
    have e6 : ¬(decide (kind ≠ .defl) && decide (0 < dataLen p) && decide (s.sess.written = s.sess.total)) = true := by
      simp only [Bool.and_eq_true, decide_eq_true_eq]
      exact fun hc => h.room hc.1.1 (by omega) hc.2
    rw [if_neg e1, if_neg (not_not.mpr h.session), if_neg e3, if_neg e4, if_neg (not_not.mpr h.checksum), if_neg e6]

theorem dataBytes_length {p : List Byte} (h : DataShape p) : (dataBytes p).length = (wordAt p 0).toNat := by
  have := h.2
  simp [dataBytes, dataLen]
  omega

/-- Every command ends in a next state (R370). -/
theorem exec_next (i : Instr) (s : State) : ∃ t, exec i s = .next t := by
  cases i <;> exact ⟨_, rfl⟩

end Sys2Proof.Machine
end

