-- ==== Sys2Proof/Laws/PerInstr.lean ====
section
/-! SUPPORT. Statements made for every instruction, one lemma per constructor. -/

namespace Sys2Proof.Laws.RequestHeader

/-- The packet of a request reads back, field by field, as the request it was made from (spec/30_encoding.md R83,
R84), whatever the opcode numbers. -/
def Statement (i : Instr) : Prop :=
  ∀ m : OpcodeMap,
    (encode m i).length = 8 + i.payload.length ∧ byteAt (encode m i) 0 = 0x00
      ∧ byteAt (encode m i) 1 = m.code i.opcode ∧ le32 (encode m i) 4 = i.value
      ∧ (encode m i).drop 8 = i.payload
      ∧ (i.wf = true → (le16 (encode m i) 2).toNat = i.payload.length)

/-- Every well-formed request has a payload that fits the length field. -/
theorem payload_fits {i : Instr} (h : i.wf = true) : i.payload.length < 2 ^ 16 := by
  cases i <;> simp_all [Instr.wf, payloadFits, Instr.payload]

theorem of_header (i : Instr) : Statement i := fun m => by
  obtain ⟨hl, h0, h1, h2, h4, h8⟩ :=
    header_fields 0x00 (m.code i.opcode) (BitVec.ofNat 16 i.payload.length) i.value i.payload
  refine ⟨hl, h0, h1, h4, h8, fun h => ?_⟩
  have := payload_fits h
  exact (congrArg BitVec.toNat h2).trans (by rw [BitVec.toNat_ofNat]; exact Nat.mod_eq_of_lt this)

theorem sync (value : Word) (payload : List Byte) : Statement (.sync value payload) := of_header _

theorem flashBegin (value : Word) (payload : List Byte) : Statement (.flashBegin value payload) := of_header _

theorem flashData (value : Word) (payload : List Byte) : Statement (.flashData value payload) := of_header _

theorem flashEnd (value : Word) (payload : List Byte) : Statement (.flashEnd value payload) := of_header _

theorem memBegin (value : Word) (payload : List Byte) : Statement (.memBegin value payload) := of_header _

theorem memData (value : Word) (payload : List Byte) : Statement (.memData value payload) := of_header _

theorem memEnd (value : Word) (payload : List Byte) : Statement (.memEnd value payload) := of_header _

theorem memFinish (value : Word) (payload : List Byte) : Statement (.memFinish value payload) := of_header _

theorem flashDeflBegin (value : Word) (payload : List Byte) : Statement (.flashDeflBegin value payload) := of_header _

theorem flashDeflData (value : Word) (payload : List Byte) : Statement (.flashDeflData value payload) := of_header _

theorem flashDeflEnd (value : Word) (payload : List Byte) : Statement (.flashDeflEnd value payload) := of_header _

theorem readFlash (value : Word) (payload : List Byte) : Statement (.readFlash value payload) := of_header _

theorem eraseFlash (value : Word) (payload : List Byte) : Statement (.eraseFlash value payload) := of_header _

theorem eraseRegion (value : Word) (payload : List Byte) : Statement (.eraseRegion value payload) := of_header _

theorem spiFlashMd5 (value : Word) (payload : List Byte) : Statement (.spiFlashMd5 value payload) := of_header _

theorem readReg (value : Word) (payload : List Byte) : Statement (.readReg value payload) := of_header _

theorem writeReg (value : Word) (payload : List Byte) : Statement (.writeReg value payload) := of_header _

theorem changeBaudrate (value : Word) (payload : List Byte) : Statement (.changeBaudrate value payload) := of_header _

end Sys2Proof.Laws.RequestHeader
end

