-- ==== Sys2Proof/Laws/Step.lean ====
section
/-! SUPPORT. What one step can do, said once. -/

namespace Sys2Proof.Machine

/-- A step that answers a next state checked the parameters and took one event: MAIN's turn, a push of bytes the
transport delivers, or the external reset. -/
theorem step_next_cases {s t : State} (h : step s = .next t) :
    s.cfg.ok = true ∧
      (((s.inbox.head? = none ∨ s.inbox.head? = some .mainTurn)
          ∧ mainStep { s with inbox := s.inbox.tail } = .next t)
        ∨ (∃ b packet es, (s.inbox = .rxPacket b :: es ∨ ∃ x, s.inbox = .rxByte x :: es ∧ b = [x])
            ∧ deliverable { s with inbox := es } b packet = true ∧ t = pushBytes b { s with inbox := es })
        ∨ ∃ es, s.inbox = .reset :: es ∧ t = externalReset { s with inbox := es }) := by
  unfold step at h
  split at h
  · cases h
  · rename_i hok
    refine ⟨by simpa using hok, ?_⟩
    split at h
    · rename_i hi
      exact .inl ⟨.inl (by rw [hi]; rfl), by rw [hi]; rw [← h]; cases s; cases hi; rfl⟩
    · rename_i e es hi
      cases e with
      | mainTurn => exact .inl ⟨.inr (by rw [hi]; rfl), by rw [hi]; exact h⟩
      | rxByte x =>
        simp only [eventStep, isrStep] at h
        split at h
        · cases h; exact .inr (.inl ⟨[x], false, es, .inr ⟨x, hi, rfl⟩, ‹_›, rfl⟩)
        · cases h
      | rxPacket b =>
        simp only [eventStep, isrStep] at h
        split at h
        · cases h; exact .inr (.inl ⟨b, true, es, .inl hi, ‹_›, rfl⟩)
        · cases h
      | reset => cases h; exact .inr (.inr ⟨es, hi, rfl⟩)

/-- On MAIN's turn the step is that of its mode. -/
theorem step_main {s : State} (hok : s.cfg.ok = true) (hm : s.mainNext) :
    step s = modeStep { s with inbox := s.inbox.tail } := by
  obtain ⟨hm, hw⟩ := hm
  have key : mainStep { s with inbox := s.inbox.tail } = modeStep { s with inbox := s.inbox.tail } := by
    unfold mainStep
    rw [show ({ s with inbox := s.inbox.tail } : State).waiting = none from hw]
  rw [← key]
  unfold step
  rw [if_neg (by simp [hok])]
  cases hi : s.inbox with
  | nil => cases s; cases hi; rfl
  | cons e es =>
    rw [hi] at hm
    rcases hm with hm | hm
    · cases hm
    · cases hm; rfl

/-- What a turn of MAIN can do: it waits; or it takes the boot step, a step of the stream, or a byte step of mode CMD; in
the terminal modes it has no next state. -/
theorem mainStep_next_cases {s t : State} (h : mainStep s = .next t) :
    (∃ q, s.waiting = some q ∧ t = s)
      ∨ s.waiting = none ∧ ((s.mode = .boot ∧ t = bootStep s) ∨ (s.mode = .cmd ∧ byteStep s = .next t)
        ∨ (s.mode = .stream ∧ streamStep s = .next t)) := by
  unfold mainStep at h
  split at h
  · cases h; exact .inl ⟨_, ‹_›, rfl⟩
  · refine .inr ⟨‹_›, ?_⟩
    unfold modeStep at h
    split at h
    · cases h; exact .inl ⟨‹_›, rfl⟩
    · exact .inr (.inl ⟨‹_›, h⟩)
    · exact .inr (.inr ⟨‹_›, h⟩)
    · cases h
    · cases h
    · cases h

/-- What a decoder byte step can do: the overflow is fatal, the queue is empty and MAIN is held, or one byte is taken,
and the frame it completes, if any, is handled. -/
theorem byteStep_next_cases {s t : State} (h : byteStep s = .next t) :
    (s.ovf = true ∧ t = raiseFatal .rxqOverflow s) ∨ (s.ovf = false ∧ s.rxq = [] ∧ t = s)
      ∨ ∃ x rest, s.ovf = false ∧ s.rxq = x :: rest ∧
          let q := slipByte s.cfg.frameCap s.dstate s.fbuf x
          let u := { s with rxq := rest, dstate := q.dstate, fbuf := q.fbuf }
          (q.delivered = none ∧ t = u) ∨ ∃ f, q.delivered = some f ∧ deliver f u = .next t := by
  unfold byteStep at h
  split at h
  · cases h; exact .inl ⟨‹_›, rfl⟩
  · rename_i ho
    have ho : s.ovf = false := by simpa using ho
    split at h
    · cases h; exact .inr (.inl ⟨ho, ‹_›, rfl⟩)
    · rename_i x rest hr
      refine .inr (.inr ⟨x, rest, ho, hr, ?_⟩)
      dsimp only at h ⊢
      split at h
      · cases h; exact .inl ⟨‹_›, rfl⟩
      · exact .inr ⟨_, ‹_›, h⟩

/-- What a stream step can do (R253). -/
theorem streamStep_next_cases {s t : State} (h : streamStep s = .next t) :
    (t = raiseFatal .invariant s ∧ ∀ r, s.rs = some r → r.ok s.cfg = false)
      ∨ ∃ r, s.rs = some r ∧ r.ok s.cfg = true ∧
          ((r.acked = r.len ∧ t = streamEnd r s)
            ∨ (r.acked ≠ r.len ∧ r.sent.toNat < r.len.toNat ∧ r.sent.toNat - r.acked.toNat < r.inflight.toNat
                ∧ t = streamSend r s)
            ∨ (r.acked ≠ r.len ∧ ¬(r.sent.toNat < r.len.toNat ∧ r.sent.toNat - r.acked.toNat < r.inflight.toNat)
                ∧ byteStep s = .next t)) := by
  unfold streamStep at h
  split at h
  · cases h; exact .inl ⟨rfl, fun r hr => by simp_all⟩
  · rename_i r hr
    split at h
    · cases h
      exact .inl ⟨rfl, fun r' hr' => by rw [hr] at hr'; cases hr'; simpa using ‹(!r.ok s.cfg) = true›⟩
    · rename_i hok
      refine .inr ⟨r, hr, by simpa using hok, ?_⟩
      split at h
      · cases h; exact .inl ⟨‹_›, rfl⟩
      · split at h
        · rename_i hs
          simp only [Bool.and_eq_true, decide_eq_true_eq] at hs
          cases h; exact .inr (.inl ⟨‹_›, hs.1, hs.2, rfl⟩)
        · rename_i hs
          simp only [Bool.and_eq_true, decide_eq_true_eq] at hs
          exact .inr (.inr ⟨‹_›, hs, h⟩)

end Sys2Proof.Machine
end

