-- ==== Sys2Proof/Tests/Slice0.lean ====
section
/-! SUPPORT. Tests against the examples the spec writes out, and for every statement that has hypotheses a concrete
state and operands that meet them all (test_witness_…). The expected bytes come from the rules named. -/

namespace Sys2Proof.Tests

open Sys2Proof.Machine

-- One theorem at a time: each kernel evaluation that waits for another holds a thread of its own.
set_option Elab.async false

/-! ## Helpers -/

/-- The engine after its greeting, with the parameters of spec/95_test_vectors.md. -/
def ready : State := { State.reset with mode := .cmd }

/-- `ready` where the ports give these answers. -/
def answering (a : List Answer) : State := { ready with answers := a }

/-- A payload of words. -/
def words (l : List Nat) : List Byte := l.flatMap fun n => put32 (BitVec.ofNat 32 n)

/-- An open session with the region [base, base+total), of which `written` bytes are written. -/
def session (kind : SessionKind) (base total written : Nat) : Session where
  kind := kind
  base := BitVec.ofNat 32 base
  total := BitVec.ofNat 32 total
  nblocks := 1
  bsize := 1024
  written := BitVec.ofNat 32 written
  nextSeq := 0
  rcsum := 0xEF

/-- The state a command leaves. -/
def after (r : Host.Outcome State Fault Refusal) : Option State :=
  match r with
  | .next s => some s
  | _ => none

/-- What a command sends and asks of its ports. -/
def outputs (r : Host.Outcome State Fault Refusal) : Option (List PortEvent) := (after r).map (·.trace)

/-- A response as it leaves: no byte of these packets needs an escape. -/
def wire (p : List Byte) : PortEvent := .tx ([0xC0] ++ p ++ [0xC0])

/-! ## WellFormed refuses an ill-formed term of each check -/

theorem test_wf_refuses_long_payload : (Instr.sync 0 (List.replicate 65536 0)).wf = false := by
  rw [Instr.wf, payloadFits, List.length_replicate]; rfl

theorem test_wf_refuses_memEnd_without_no_exec : (Instr.memEnd 0 (words [0, 4])).wf = false := by decide

theorem test_wf_refuses_memFinish_with_no_exec : (Instr.memFinish 0 (words [1, 4])).wf = false := by decide

theorem test_wf_refuses_memFinish_without_first_word : (Instr.memFinish 0 [0, 0, 0]).wf = false := by decide

/-! ## Decoding words written out from R83 and R96 -/

/-- The packets of 00 op L L V V V V with the smallest payload of each row. -/
def decodes (bytes : List Byte) (i : Instr) : Prop := decode defaultOpcodes bytes = .ok i

theorem test_decode_sync : decodes [0x00, 0x08, 0x02, 0x00, 0, 0, 0, 0, 0x07, 0x12] (.sync 0 [0x07, 0x12]) := rfl

theorem test_decode_flashBegin :
    decodes ([0x00, 0x02, 0x10, 0x00, 0, 0, 0, 0] ++ [0x00, 0x10, 0x00, 0x00, 0x04, 0x00, 0x00, 0x00]
      ++ [0x00, 0x04, 0x00, 0x00, 0x00, 0x00, 0x01, 0x00])
      (.flashBegin 0 (words [4096, 4, 1024, 0x10000])) := rfl

theorem test_decode_flashData :
    decodes ([0x00, 0x03, 0x11, 0x00, 0xEE, 0, 0, 0] ++ words [1, 0, 0, 0] ++ [0x01])
      (.flashData 0xEE (words [1, 0, 0, 0] ++ [0x01])) := rfl

theorem test_decode_flashEnd : decodes [0x00, 0x04, 0x04, 0x00, 0, 0, 0, 0, 1, 0, 0, 0] (.flashEnd 0 (words [1])) := rfl

theorem test_decode_memBegin :
    decodes ([0x00, 0x05, 0x10, 0x00, 0, 0, 0, 0] ++ [8, 0, 0, 0, 1, 0, 0, 0, 8, 0, 0, 0, 0x00, 0x00, 0xFE, 0x3F])
      (.memBegin 0 (words [8, 1, 8, 0x3FFE0000])) := rfl

theorem test_decode_memEnd :
    decodes [0x00, 0x06, 0x08, 0x00, 0, 0, 0, 0, 1, 0, 0, 0, 0, 0, 0, 0] (.memEnd 0 (words [1, 0])) := rfl

theorem test_decode_memFinish :
    decodes [0x00, 0x06, 0x08, 0x00, 0, 0, 0, 0, 0, 0, 0, 0, 0x04, 0x00, 0xFE, 0x3F]
      (.memFinish 0 (words [0, 0x3FFE0004])) := rfl

theorem test_decode_memData :
    decodes ([0x00, 0x07, 0x10, 0x00, 0xEF, 0, 0, 0] ++ words [0, 2, 0, 0]) (.memData 0xEF (words [0, 2, 0, 0])) := rfl

theorem test_decode_writeReg :
    decodes ([0x00, 0x09, 0x10, 0x00, 0, 0, 0, 0] ++ [0x04, 0x00, 0x00, 0x60, 0xDD, 0xCC, 0xBB, 0xAA]
      ++ [0xFF, 0xFF, 0xFF, 0xFF, 0, 0, 0, 0])
      (.writeReg 0 (words [0x60000004, 0xAABBCCDD, 0xFFFFFFFF, 0])) := rfl

theorem test_decode_readReg :
    decodes [0x00, 0x0A, 0x04, 0x00, 0, 0, 0, 0, 0x04, 0x00, 0x00, 0x60] (.readReg 0 (words [0x60000004])) := rfl

theorem test_decode_changeBaudrate :
    decodes [0x00, 0x0F, 0x08, 0x00, 0, 0, 0, 0, 0x00, 0x10, 0x0E, 0x00, 0x00, 0xC2, 0x01, 0x00]
      (.changeBaudrate 0 (words [921600, 115200])) := rfl

theorem test_decode_flashDeflBegin :
    decodes ([0x00, 0x10, 0x10, 0x00, 0, 0, 0, 0] ++ [5, 0, 0, 0, 1, 0, 0, 0, 0x00, 0x40, 0, 0, 0, 0, 0x02, 0])
      (.flashDeflBegin 0 (words [5, 1, 0x4000, 0x20000])) := rfl

theorem test_decode_flashDeflData :
    decodes ([0x00, 0x11, 0x12, 0x00, 0x4D, 0, 0, 0] ++ words [2, 0, 0, 0] ++ [0x78, 0xDA])
      (.flashDeflData 0x4D (words [2, 0, 0, 0] ++ [0x78, 0xDA])) := rfl

theorem test_decode_flashDeflEnd :
    decodes [0x00, 0x12, 0x04, 0x00, 0, 0, 0, 0, 1, 0, 0, 0] (.flashDeflEnd 0 (words [1])) := rfl

theorem test_decode_spiFlashMd5 :
    decodes ([0x00, 0x13, 0x10, 0x00, 0, 0, 0, 0] ++ [0, 0, 1, 0, 0, 0, 0, 0, 0, 0, 0, 0, 0, 0, 0, 0])
      (.spiFlashMd5 0 (words [0x10000, 0, 0, 0])) := rfl

theorem test_decode_eraseFlash : decodes [0x00, 0xD0, 0x00, 0x00, 0, 0, 0, 0] (.eraseFlash 0 []) := rfl

theorem test_decode_eraseRegion :
    decodes [0x00, 0xD1, 0x08, 0x00, 0, 0, 0, 0, 0x00, 0x20, 0, 0, 0x00, 0x10, 0, 0]
      (.eraseRegion 0 (words [0x2000, 0x1000])) := rfl

theorem test_decode_readFlash :
    decodes ([0x00, 0xD2, 0x10, 0x00, 0, 0, 0, 0] ++ [0x00, 0x10, 0, 0, 8, 0, 0, 0, 0x00, 0x10, 0, 0, 0x00, 0x10, 0, 0])
      (.readFlash 0 (words [0x1000, 8, 4096, 4096])) := rfl

/-- The encoder writes the packet of R98, and the table's word is the one the decoder reads. -/
theorem test_encode_and_table_word :
    encode defaultOpcodes (.flashEnd 0 (words [1])) = [0x00, 0x04, 0x04, 0x00, 0, 0, 0, 0, 1, 0, 0, 0]
      ∧ decodeTableWord 16 0xD000 = some (.eraseFlash 0 []) ∧ decodeTableWord 16 0x0B00 = none := by decide

/-- R181, R182, R183, R187: the frames their examples refuse. -/
theorem test_decode_refuses :
    decode defaultOpcodes [0x00, 0x08, 0x00] = .error (.short 0x08)
      ∧ decode defaultOpcodes [0x01, 0x08, 0, 0, 0, 0, 0, 0] = .error (.badDirection 0x08)
      ∧ decode defaultOpcodes [0x00, 0x0A, 0x08, 0, 0, 0, 0, 0, 0x00, 0x10, 0x00, 0x60] = .error (.badLength 0x0A)
      ∧ decode defaultOpcodes [0x00, 0x0B, 0, 0, 0, 0, 0, 0] = .error (.notImplemented 0x0B) := ⟨rfl, rfl, rfl, rfl⟩

/-! ## Codec, checksum, digest, inflater: the spec's worked values -/

/-- R160. -/
theorem test_slip_encode :
    slipEncode [0x01, 0xC0, 0xDB, 0x02] = [0xC0, 0x01, 0xDB, 0xDC, 0xDB, 0xDD, 0x02, 0xC0] := by decide

/-- R153: the closing delimiter opens the next frame. -/
theorem test_slip_shared_delimiter :
    slipDecode 100 .hunt [] [0xC0, 0x01, 0xC0, 0xC0, 0x02, 0xC0] = (.inFrame, [], [[0x01], [], [0x02]]) := by decide

/-- R157, R158. -/
theorem test_slip_bad_escapes :
    slipDecode 100 .inFrame [0x00, 0x08] [0xDB, 0xC0] = (.inFrame, [], [])
      ∧ slipDecode 100 .inFrame [0x00] [0xDB, 0xDB] = (.hunt, [], []) := by decide

/-- R290. -/
theorem test_csum :
    csum 0xEF [0x01, 0x02, 0x03, 0x04] = 0xEB ∧ csum 0xEF [0x68, 0x65, 0x6C, 0x6C, 0x6F] = 0x8D := by decide

/-- R303: MD5 of the empty string and of "abc". -/
theorem test_md5 :
    md5 [] = [0xD4, 0x1D, 0x8C, 0xD9, 0x8F, 0x00, 0xB2, 0x04, 0xE9, 0x80, 0x09, 0x98, 0xEC, 0xF8, 0x42, 0x7E]
      ∧ md5 [0x61, 0x62, 0x63]
        = [0x90, 0x01, 0x50, 0x98, 0x3C, 0xD2, 0x4F, 0xB0, 0xD6, 0x96, 0x3F, 0x7D, 0x28, 0xE1, 0x7F, 0x72] := by
  decide +kernel

/-- R340: the Adler-32 of "hello". -/
theorem test_adler : [0x68, 0x65, 0x6C, 0x6C, 0x6F].foldl adlerByte 1 = 0x062C0215 := by decide +kernel

/-- R345: zlib("AB") as a stored block; R343: one more byte is an error. -/
theorem test_inflate_stored :
    let r := inflateFeed 32768 inflateInit [0x78, 0x01, 0x01, 0x02, 0x00, 0xFD, 0xFF, 0x41, 0x42, 0x00, 0xC6, 0x00, 0x84]
    r.1 = [0x41, 0x42] ∧ r.2.status = .done ∧ (inflateFeed 32768 r.2 [0x00]).2.status = .error := by decide +kernel

/-- R345: zlib("hello") in fixed codes, split inside a code. -/
theorem test_inflate_fixed_split :
    let r := inflateFeed 32768 inflateInit [0x78, 0xDA, 0xCB, 0x48, 0xCD, 0xC9, 0xC9]
    let q := inflateFeed 32768 r.2 [0x07, 0x00, 0x06, 0x2C, 0x02, 0x15]
    r.1 = [0x68, 0x65, 0x6C, 0x6C] ∧ q.1 = [0x6F] ∧ q.2.status = .done := by decide +kernel

/-! ## The receive FIFO and MAIN -/

/-- The parameters with a queue of four bytes (R130, R131). -/
def queueOfFour : State := { ready with cfg := { defaultConfig with rxqCap := 4 }, rxq := [0xC0, 0x00] }

theorem test_push_byte : (pushBytes [0x08] queueOfFour).rxq = [0xC0, 0x00, 0x08] := by decide

theorem test_push_packet_overflows :
    (pushBytes [0x08, 0x24, 0x00] queueOfFour).rxq = [0xC0, 0x00]
      ∧ (pushBytes [0x08, 0x24, 0x00] queueOfFour).ovf = true
      ∧ (pushBytes [0x08, 0x24, 0x00] { queueOfFour with ovfCnt := 0xFFFFFFFF }).ovfCnt = 0xFFFFFFFF := by decide

/-- R402: the greeting. -/
theorem test_boot : outputs (step State.reset) = some [wire [0x4F, 0x48, 0x41, 0x49]] := by decide +kernel

/-- R183's example, as the frame ends. -/
theorem test_length_mismatch_response :
    outputs (commandFrame [0x00, 0x0A, 0x08, 0, 0, 0, 0, 0, 0x00, 0x10, 0x00, 0x60] ready)
      = some [.tx [0xC0, 0x01, 0x0A, 0x02, 0, 0, 0, 0, 0, 0x01, 0xDB, 0xDC, 0xC0]] := by decide +kernel

/-- The first instruction after reset, placed where the fetch takes it (log 21). -/
theorem test_withFetchWord :
    outputs (step (State.reset.withFetchWord 16 0x0800))
      = some [wire [0x01, 0x08, 0x02, 0, 0, 0, 0, 0, 0x00, 0x00]] := by decide +kernel

/-! ## The commands: the spec's examples -/

/-- R200: SYNC drops a session and keeps the queue. -/
theorem test_sync :
    (after (exec (.sync 0 [0x07]) { ready with sess := session .flash 0 4 0, rxq := [0x55] })).map
        (fun t => (t.sess.kind, t.rxq, t.trace))
      = some (.none, [0x55], [wire [0x01, 0x08, 0x02, 0, 0, 0, 0, 0, 0, 0]]) := by decide +kernel

/-- R202. -/
theorem test_flashBegin :
    (after (exec (.flashBegin 0 (words [4096, 4, 1024, 0x10000])) (answering [.stored]))).map
        (fun t => (t.sess, t.trace))
      = some ({ session .flash 0x10000 4096 0 with nblocks := 4 },
          [.flashErase 0x10000 0x1000 true, wire [0x01, 0x02, 0x02, 0, 0, 0, 0, 0, 0, 0]]) := by decide +kernel

/-- R203: an unaligned region is rounded outward. -/
theorem test_eraseRange : eraseRange defaultConfig 0x1800 0x900 = (0x1000, 0x2000) := by decide

/-- R204, with an old byte 0x0F at the place of the second (R76). -/
theorem test_flashData :
    (after (exec (.flashData 0xEB (words [4, 0, 0, 0] ++ [0x01, 0x02, 0x03, 0x14]))
        { answering [.stored] with sess := session .flash 0x10000 4096 0 })).map (·.trace)
      = some [wire [0x01, 0x03, 0x02, 0, 0, 0, 0, 0, 0x01, 0xC1]]
    ∧ (after (exec (.flashData 0xEB (words [4, 0, 0, 0] ++ [0x01, 0x02, 0x03, 0x04]))
        { answering [.stored] with
          sess := session .flash 0x10000 4096 0, flash := { cells := [(0x10003, 0x0B)] } })).map
        (fun t => (t.sess.nextSeq, t.sess.written, t.flash.readBytes 0x0FFFF 6))
      = some (1, 4, [0xFF, 0x01, 0x02, 0x03, 0x00, 0xFF]) := by decide +kernel

/-- R209, R212. -/
theorem test_flashEnd :
    (after (exec (.flashEnd 0 (words [1])) { ready with sess := session .flash 0 4 0 })).map
        (fun t => (t.sess.kind, t.mode, t.trace))
      = some (.none, .cmd, [wire [0x01, 0x04, 0x02, 0, 0, 0, 0, 0, 0, 0]])
    ∧ (after (exec (.flashEnd 0 (words [0])) { ready with sess := session .flash 0 4 0 })).map
        (fun t => (t.mode, t.trace))
      = some (.rebooting, [wire [0x01, 0x04, 0x02, 0, 0, 0, 0, 0, 0, 0], .resetReq]) := by decide +kernel

/-- R213. -/
theorem test_memBegin :
    outputs (exec (.memBegin 0 (words [8, 1, 8, 0x3FFE0000])) ready)
      = some [wire [0x01, 0x05, 0x02, 0, 0, 0, 0, 0, 0, 0]] := by decide +kernel

/-- R215. -/
theorem test_memData :
    (after (exec (.memData 0xEF (words [8, 0, 0, 0] ++ [0x10, 0x11, 0x12, 0x13, 0x14, 0x15, 0x16, 0x17]))
        { ready with sess := session .mem 0x3FFE0000 8 0 })).map
        (fun t => (t.ram.readBytes 0x3FFE0000 8, t.sess.written))
      = some ([0x10, 0x11, 0x12, 0x13, 0x14, 0x15, 0x16, 0x17], 8) := by decide +kernel

/-- R207: the last block is trimmed; R208: the checksum covers all of it. -/
theorem test_memData_trims :
    (after (exec (.memData 0xEC (words [2, 0, 0, 0] ++ [0x01, 0x02])) { ready with sess := session .mem 0x3FFE0000 8 7 })).map
        (fun t => (t.ram.cells, t.sess.written, t.sess.rcsum))
      = some ([(0x3FFE0007, 0x01)], 8, 0xEC) := by decide +kernel

/-- R214: RAM_OK is the only check, also of a region that ends past the address space (log 25). -/
theorem test_memBegin_only_RAM_OK :
    let any : Config := { defaultConfig with
      ramAllow := [{ addrMin := 0, addrMax := 0xFFFFFFFF, lenMin := 0, lenMax := 0xFFFFFFFF, endMax := 0x1FFFFFFFE }] }
    outputs (exec (.memBegin 0 (words [8, 1, 8, 0xFFFFFFFE])) { ready with cfg := any })
      = some [wire [0x01, 0x05, 0x02, 0, 0, 0, 0, 0, 0, 0]]
    ∧ (after (exec (.memData 0xEF (words [4, 0, 0, 0] ++ [0x10, 0x20, 0x20, 0x10]))
        { ready with cfg := any, sess := session .mem 0xFFFFFFFE 8 0 })).map (fun t => (t.ram.cells, t.sess.written))
      = some ([(0xFFFFFFFE, 0x10), (0xFFFFFFFF, 0x20)], 4) := by decide +kernel

/-- R220. -/
theorem test_memEnd :
    (after (exec (.memEnd 0 (words [1, 0])) { ready with sess := session .mem 0x3FFE0000 8 0 })).map
        (fun t => (t.sess.kind, t.mode, t.trace))
      = some (.none, .cmd, [wire [0x01, 0x06, 0x02, 0, 0, 0, 0, 0, 0, 0]]) := by decide +kernel

/-- R221. -/
theorem test_memFinish :
    (after (exec (.memFinish 0 (words [0, 0x3FFE0004])) { ready with sess := session .mem 0x3FFE0000 8 0 })).map
        (fun t => (t.mode, t.trace))
      = some (.executed, [wire [0x01, 0x06, 0x02, 0, 0, 0, 0, 0, 0, 0], .execSignal 0x3FFE0004]) := by decide +kernel

/-- R230. -/
theorem test_flashDeflBegin :
    (after (exec (.flashDeflBegin 0 (words [5, 1, 0x4000, 0x20000])) (answering [.stored]))).map
        (fun t => (t.sess.kind, t.infl.isSome, t.trace))
      = some (.defl, true, [.flashErase 0x20000 0x1000 true, wire [0x01, 0x10, 0x02, 0, 0, 0, 0, 0, 0, 0]]) := by
  decide +kernel

/-- zlib("AB") in a stored block (R345). -/
def storedAB : List Byte := [0x78, 0x01, 0x01, 0x02, 0x00, 0xFD, 0xFF, 0x41, 0x42, 0x00, 0xC6, 0x00, 0x84]

/-- The payload of a FLASH_DEFL_DATA with that stream. -/
def deflAB : List Byte := words [13, 0, 0, 0] ++ storedAB

/-- A DEFL session that declares `total` bytes at 0x20000. -/
def deflSession (total : Nat) : State :=
  { answering [.stored] with sess := session .defl 0x20000 total 0, infl := some inflateInit }

/-- R232, R233: output that fits is written before the response; output beyond the size aborts the session. -/
theorem test_flashDeflData :
    (after (exec (.flashDeflData 0xD6 deflAB) (deflSession 2))).map (fun t => (t.sess.kind, t.sess.written, t.trace))
      = some (.defl, 2, [.flashWrite 0x20000 [0x41, 0x42] true, wire [0x01, 0x11, 0x02, 0, 0, 0, 0, 0, 0, 0]])
    ∧ (after (exec (.flashDeflData 0xD6 deflAB) (deflSession 1))).map (fun t => (t.sess.kind, t.infl, t.trace))
      = some (.none, none, [.flashWrite 0x20000 [0x41] true, wire [0x01, 0x11, 0x02, 0, 0, 0, 0, 0, 0x01, 0xC9]]) := by
  decide +kernel

/-- R235. -/
theorem test_flashDeflEnd :
    (after (exec (.flashDeflEnd 0 (words [1])) (deflSession 2))).map (fun t => (t.sess.kind, t.infl, t.trace))
      = some (.none, none, [wire [0x01, 0x12, 0x02, 0, 0, 0, 0, 0, 0, 0]]) := by decide +kernel

/-- R250. -/
theorem test_readFlash :
    (after (exec (.readFlash 0 (words [0x1000, 8, 4096, 4096])) ready)).map (fun t => (t.mode, t.trace))
      = some (.stream, [wire [0x01, 0xD2, 0x02, 0, 0, 0, 0, 0, 0, 0]]) := by decide +kernel

/-- R260. -/
theorem test_eraseFlash :
    (after (exec (.eraseFlash 0 []) { answering [.stored] with flash := { cells := [(3, 0x00)] } })).map
        (fun t => (t.flash.cells, t.trace))
      = some ([], [.flashEraseChip true, wire [0x01, 0xD0, 0x02, 0, 0, 0, 0, 0, 0, 0]]) := by decide +kernel

/-- R262. -/
theorem test_eraseRegion :
    outputs (exec (.eraseRegion 0 (words [0x2000, 0x1000])) (answering [.stored]))
      = some [.flashErase 0x2000 0x1000 true, wire [0x01, 0xD1, 0x02, 0, 0, 0, 0, 0, 0, 0]]
    ∧ outputs (exec (.eraseRegion 0 (words [0x2001, 0x1000])) (answering [.stored]))
      = some [wire [0x01, 0xD1, 0x02, 0, 0, 0, 0, 0, 0x01, 0xC3]] := by decide +kernel

/-- R265. -/
theorem test_spiFlashMd5 :
    outputs (exec (.spiFlashMd5 0 (words [0x10000, 0, 0, 0])) ready)
      = some [wire ([0x01, 0x13, 0x12, 0, 0, 0, 0, 0, 0xD4, 0x1D, 0x8C, 0xD9, 0x8F, 0x00, 0xB2, 0x04]
          ++ [0xE9, 0x80, 0x09, 0x98, 0xEC, 0xF8, 0x42, 0x7E, 0x00, 0x00])] := by decide +kernel

/-- R270. -/
theorem test_readReg :
    outputs (exec (.readReg 0 (words [0x60000004])) (answering [.word 0x12345678]))
      = some [.regRead 0x60000004 0x12345678, wire [0x01, 0x0A, 0x02, 0, 0x78, 0x56, 0x34, 0x12, 0, 0]]
    ∧ outputs (exec (.readReg 0 (words [0x60001000])) ready)
      = some [wire [0x01, 0x0A, 0x02, 0, 0, 0, 0, 0, 0x01, 0xC3]] := by decide +kernel

/-- R272, R273: a direct write, and a masked one with a delay. -/
theorem test_writeReg :
    outputs (exec (.writeReg 0 (words [0x60000004, 0xAABBCCDD, 0xFFFFFFFF, 0])) ready)
      = some [.regWrite 0x60000004 0xAABBCCDD, wire [0x01, 0x09, 0x02, 0, 0, 0, 0, 0, 0, 0]]
    ∧ outputs (exec (.writeReg 0 (words [0x60000004, 0x12345678, 0xFF, 5])) (answering [.word 0xAAAAAAAA]))
      = some [.regRead 0x60000004 0xAAAAAAAA, .regWrite 0x60000004 0xAAAAAA78, .delay 5,
          wire [0x01, 0x09, 0x02, 0, 0, 0, 0, 0, 0, 0]] := by decide +kernel

/-- R275. -/
theorem test_changeBaudrate :
    outputs (exec (.changeBaudrate 0 (words [921600, 115200])) ready)
      = some [wire [0x01, 0x0F, 0x02, 0, 0, 0, 0, 0, 0, 0], .baud 921600]
    ∧ outputs (exec (.changeBaudrate 0 (words [921600, 115200])) { ready with transport := .usbSerialJtag })
      = some [wire [0x01, 0x0F, 0x02, 0, 0, 0, 0, 0, 0x01, 0xFF]] := by decide +kernel

/-! ## States and operands that meet the hypotheses of each statement -/

/-- `ready` at the delimiter that ends the frame `f`. -/
def ending (f : List Byte) : State := { ready with dstate := .inFrame, fbuf := f, rxq := [0xC0, 0x55] }

theorem defaultConfig_ok : defaultConfig.ok = true := by decide +kernel

/-- Where no transaction is listed as never answered, the ports answer. -/
theorem allAnswer (s : State) (k : Nat) (h : s.silent = []) : s.portsAnswer k := fun _ _ hm => by
  rw [h] at hm; cases hm

theorem ending_atFrameEnd (f : List Byte) : (ending f).AtFrameEnd f [0x55] :=
  ⟨defaultConfig_ok, ⟨.inl rfl, rfl⟩, rfl, rfl, rfl, rfl⟩

/-- A stream over 8 bytes at 0x1000 of which `sent` are sent and `acked` acknowledged, in packets of 4. -/
def streamOf (sent acked : Nat) : ReadStream where
  addr := 0x1000
  len := 8
  pkt := 4
  inflight := 4
  sent := BitVec.ofNat 32 sent
  acked := BitVec.ofNat 32 acked
  md5 := md5Update md5Init (List.replicate sent 0xFF)

/-- The engine in that stream. -/
def streaming (sent acked : Nat) : State := { ready with mode := .stream, rs := some (streamOf sent acked) }

/-- The same, at the delimiter that ends the frame `f`. -/
def streamEnding (sent acked : Nat) (f : List Byte) : State :=
  { streaming sent acked with dstate := .inFrame, fbuf := f, rxq := [0xC0, 0x55] }

theorem streamEnding_atFrameEnd (sent acked : Nat) (f : List Byte) :
    (streamEnding sent acked f).AtFrameEnd f [0x55] :=
  ⟨defaultConfig_ok, ⟨.inl rfl, rfl⟩, rfl, rfl, rfl, rfl⟩

theorem defaultOpcodes_distinct : defaultOpcodes.distinct := by
  intro a b h
  have ha := find_some_default a
  have hb := find_some_default b
  rw [h] at ha
  exact Option.some.inj (ha.symm.trans hb)
where
  find_some_default (c : Opcode) : defaultOpcodes.find (defaultOpcodes.code c) = some c := by cases c <;> rfl

theorem test_witness_DecodeOfEncode :
    defaultOpcodes.distinct ∧ (Instr.memFinish 0 (words [0])).wf = true := ⟨defaultOpcodes_distinct, rfl⟩

theorem test_witness_EncodeOfDecode :
    decode defaultOpcodes [0x00, 0x06, 0, 0, 0, 0, 0, 0] = .ok (.memEnd 0 []) := rfl

theorem test_witness_StepRunsDecodedInstruction :
    (ending [0x00, 0xD0, 0, 0, 0, 0, 0, 0]).AtFrameEnd [0x00, 0xD0, 0, 0, 0, 0, 0, 0] [0x55]
      ∧ (ending [0x00, 0xD0, 0, 0, 0, 0, 0, 0]).mode = .cmd
      ∧ decode (ending []).cfg.opcodes [0x00, 0xD0, 0, 0, 0, 0, 0, 0] = .ok (.eraseFlash 0 []) :=
  ⟨ending_atFrameEnd _, rfl, rfl⟩

theorem test_witness_RequestOnTheWireIsRun :
    let i : Instr := .eraseRegion 0xC0 (words [0xDB, 0])
    let s : State := { ready with rxq := slipEncode (encode defaultOpcodes i) ++ [0x55] }
    s.cfg.ok = true ∧ s.inbox = [] ∧ s.waiting = none ∧ s.mode = .cmd ∧ s.ovf = false ∧ s.dstate ≠ .escape ∧ s.fbuf = [] ∧ i.wf = true
      ∧ s.cfg.opcodes.distinct ∧ (encode s.cfg.opcodes i).length ≤ s.cfg.frameCap
      ∧ s.rxq = slipEncode (encode s.cfg.opcodes i) ++ [0x55] :=
  ⟨by decide +kernel, rfl, rfl, rfl, rfl, by decide, rfl, by decide +kernel, defaultOpcodes_distinct, by decide +kernel, rfl⟩

theorem test_witness_MalformedPacketsGetOneFailure :
    (ending []).portsAnswer 1 ∧ (∀ f, (ending f).AtFrameEnd f [0x55] ∧ (ending f).mode = .cmd)
      ∧ (1 ≤ [(0x00 : Byte)].length ∧ [(0x00 : Byte)].length ≤ 7)
      ∧ (1 ≤ (words [0x800, 0]).dropLast.length ∧ (words [0x800, 0]).dropLast.length ≤ 7)
      ∧ (8 ≤ (words [0x801, 0]).length ∧ byteAt (words [0x801, 0]) 0 ≠ 0x00)
      ∧ (8 ≤ (words [0x10800, 0]).length ∧ byteAt (words [0x10800, 0]) 0 = 0x00
          ∧ (words [0x10800, 0]).length ≠ 8 + (le16 (words [0x10800, 0]) 2).toNat) :=
  ⟨allAnswer _ _ rfl, fun f => ⟨ending_atFrameEnd f, rfl⟩, by decide, by decide, by decide, by decide⟩

theorem test_witness_UnimplementedOpcodeGetsOneFailure :
    let f := words [0x0B00, 0]
    (ending f).portsAnswer 1 ∧ (ending f).AtFrameEnd f [0x55] ∧ (ending f).mode = .cmd ∧ 8 ≤ f.length ∧ byteAt f 0 = 0x00
      ∧ f.length = 8 + (le16 f 2).toNat ∧ ∀ c : Opcode, (ending f).cfg.opcodes.code c ≠ byteAt f 1 :=
  ⟨allAnswer _ _ rfl, ending_atFrameEnd _, rfl, by decide, by decide, by decide, fun c => by cases c <;> decide⟩

theorem test_witness_EmptyFrameIsIgnored : (ending []).AtFrameEnd [] [0x55] ∧ (ending []).mode = .cmd :=
  ⟨ending_atFrameEnd _, rfl⟩

/-- A stream that waits for an acknowledgement, with its window full and with everything sent. -/
theorem streamEnding_reads (f : List Byte) :
    (streamOf 4 0).Reads (streamEnding 4 0 f) ∧ (streamOf 8 4).Reads (streamEnding 8 4 f) :=
  ⟨⟨rfl, rfl, streamOf_ok.1, by decide, by decide⟩, ⟨rfl, rfl, streamOf_ok.2, by decide, by decide⟩⟩
where
  streamOf_ok : (streamOf 4 0).ok defaultConfig = true ∧ (streamOf 8 4).ok defaultConfig = true := by decide +kernel

theorem test_witness_SlipDecodesWhatItEncodes : 1 ≤ [(0xC0 : Byte)].length ∧ [(0xC0 : Byte)].length ≤ 1 := by decide

theorem test_witness_DecoderResynchronises : 1 ≤ [(0xDB : Byte)].length ∧ [(0xDB : Byte)].length ≤ 1 := by decide

/-- The smallest frame buffer R6 allows. -/
def smallConfig : Config := { defaultConfig with maxWriteBlock := 1, frameCap := 25 }

theorem smallConfig_ok : smallConfig.ok = true := by decide +kernel

/-- `ready` with that frame buffer, holding `n` bytes of a frame. -/
def holding (n : Nat) (d : DecoderState) (x : Byte) : State :=
  { ready with
    cfg := smallConfig
    dstate := d
    fbuf := List.replicate n 0x11
    rxq := [x, 0x55] }

theorem test_witness_MalformedFrameIsDiscarded :
    (∀ n d x, (holding n d x).cfg.ok = true ∧ (holding n d x).mainNext ∧ (holding n d x).Decodes
        ∧ (holding n d x).ovf = false ∧ (holding n d x).rxq = [x, 0x55])
      ∧ ((holding 25 .inFrame 0x33).dstate = .inFrame ∧ (0x33 : Byte) ≠ 0xC0 ∧ (0x33 : Byte) ≠ 0xDB
          ∧ (holding 25 .inFrame 0x33).cfg.frameCap ≤ (holding 25 .inFrame 0x33).fbuf.length)
      ∧ ((holding 25 .escape 0xDC).dstate = .escape
          ∧ (holding 25 .escape 0xDC).cfg.frameCap ≤ (holding 25 .escape 0xDC).fbuf.length)
      ∧ ((holding 0 .escape 0x41).dstate = .escape ∧ (0x41 : Byte) ≠ 0xC0 ∧ (0x41 : Byte) ≠ 0xDC
          ∧ (0x41 : Byte) ≠ 0xDD)
      ∧ (holding 2 .escape 0xC0).dstate = .escape :=
  ⟨fun _ _ _ => ⟨smallConfig_ok, ⟨.inl rfl, rfl⟩, .inl rfl, rfl, rfl⟩, by decide, by decide, by decide, rfl⟩

theorem test_witness_ReceiveQueuesOrCountsOverflow :
    let u : State := { queueOfFour with rxq := [1, 2, 3], inbox := [.rxByte 9] }
    let v : State := { queueOfFour with
      cfg := { queueOfFour.cfg with transport := .usbOtg }, transport := .usbOtg, rxq := [1], inbox := [.rxPacket [7, 8, 9, 0]] }
    (u.cfg.ok = true ∧ u.inbox = [.rxByte 9] ∧ u.transport = .uart ∧ u.rxq.length + [(9 : Byte)].length ≤ u.cfg.rxqCap)
      ∧ (v.cfg.ok = true ∧ v.inbox = [.rxPacket [7, 8, 9, 0]] ∧ v.transport ≠ .uart
          ∧ 1 ≤ [(7 : Byte), 8, 9, 0].length ∧ [(7 : Byte), 8, 9, 0].length ≤ v.cfg.usbPktMax
          ∧ v.cfg.rxqCap < v.rxq.length + [(7 : Byte), 8, 9, 0].length) := by decide +kernel

theorem test_witness_ReceiveIsConfined :
    let s : State := { ready with inbox := [.rxByte 9] }
    s.inbox = [.rxByte 9] ∧ ∃ t, step s = .next t := ⟨rfl, _, rfl⟩

theorem test_witness_PendingOverflowHalts :
    let s : State := { ready with ovf := true, ovfCnt := 1, rxq := [0xC0] }
    let u : State := { streamEnding 4 0 [] with ovf := true, ovfCnt := 1 }
    (s.cfg.ok = true ∧ s.mainNext ∧ s.Decodes ∧ s.ovf = true)
      ∧ (u.cfg.ok = true ∧ u.mainNext ∧ u.Decodes ∧ u.ovf = true) :=
  ⟨⟨defaultConfig_ok, ⟨.inl rfl, rfl⟩, .inl rfl, rfl⟩, defaultConfig_ok, ⟨.inl rfl, rfl⟩,
    .inr ⟨streamOf 4 0, rfl, rfl, (streamEnding_reads []).1.ok, by decide, by decide⟩, rfl⟩

theorem test_witness_EmptyQueueHoldsMain :
    let u : State := { streamEnding 8 4 [] with rxq := [] }
    (ready.cfg.ok = true ∧ ready.mainNext ∧ ready.Decodes ∧ ready.ovf = false ∧ ready.rxq = [])
      ∧ (u.cfg.ok = true ∧ u.mainNext ∧ u.Decodes ∧ u.ovf = false ∧ u.rxq = []) :=
  ⟨⟨defaultConfig_ok, ⟨.inl rfl, rfl⟩, .inl rfl, rfl, rfl⟩, defaultConfig_ok, ⟨.inl rfl, rfl⟩,
    .inr ⟨streamOf 8 4, rfl, rfl, (streamEnding_reads []).2.ok, by decide, by decide⟩, rfl, rfl⟩

theorem test_witness_OverflowIsSticky :
    let s : State := { ready with ovf := true, ovfCnt := 1, inbox := [.rxByte 0] }
    (∃ t, step s = .next t) ∧ s.inbox.head? ≠ some .reset ∧ s.ovf = true := ⟨⟨_, rfl⟩, by decide, rfl⟩

theorem test_witness_BootSendsGreeting :
    State.reset.cfg.ok = true ∧ State.reset.mainNext ∧ State.reset.mode = .boot ∧ State.reset.portsAnswer 1 :=
  ⟨by decide +kernel, ⟨.inl rfl, rfl⟩, rfl, allAnswer _ _ rfl⟩

theorem test_witness_ResetGivesResetState :
    let s : State := { ready with mode := .halted, fatal := .flashFault, rxq := [1], inbox := [.reset, .mainTurn] }
    s.cfg.ok = true ∧ s.inbox = [.reset, .mainTurn] := by decide +kernel

/-- A terminal mode with a byte about to arrive. -/
def ended (m : Mode) : State := { ready with mode := m, inbox := [.rxByte 0xC0] }

theorem test_witness_TerminalModesAreFinal :
    (ended .halted).mode = .halted ∧ (ended .executed).mode = .executed ∧ (ended .rebooting).mode = .rebooting
      ∧ (∀ m, (ended m).inbox.head? ≠ some .reset) ∧ (∃ t, step (ended .halted) = .next t)
      ∧ (∃ t, step (ended .executed) = .next t) ∧ ∃ t, step (ended .rebooting) = .next t :=
  ⟨rfl, rfl, rfl, fun _ h => (by cases h), ⟨_, rfl⟩, ⟨_, rfl⟩, ⟨_, rfl⟩⟩

theorem test_witness_TerminalModesStopMain :
    ∀ m, ({ ready with mode := m } : State).cfg.ok = true ∧ ({ ready with mode := m } : State).mainNext
      ∧ ({ ready with mode := m } : State).mode = m := fun _ => ⟨defaultConfig_ok, ⟨.inl rfl, rfl⟩, rfl⟩

/-- A machine in a FLASH session that is half written, with a byte to decode. -/
def midSession : State :=
  { ready with
    sess := session .flash 0x10000 8 4
    dstate := .inFrame
    fbuf := [0x00]
    rxq := [0x03]
    flash := { cells := [(0x10000, 0x01), (0x10003, 0x04)] } }

theorem midSession_inv : midSession.Inv where
  params := by decide +kernel
  transport := rfl
  fifo := by decide
  counted := by decide
  frame := by decide
  hunt h := by cases h
  boot h := by cases h
  session := by decide +kernel
  stream h := by cases h
  fatal := by decide
  reached := by decide
  waiting q h := by cases h
  flash := by decide +kernel
  ram := by decide
  regs := by decide

/-- The witness of StepKeepsInvariant, PortRequestsAreAllowed and ForeignStorageIsUntouched. -/
theorem test_witness_StepKeepsInvariant :
    midSession.Inv ∧ (∃ t, step midSession = .next t) ∧ inRegs midSession.cfg 0 = false
      ∧ inRegs midSession.cfg 0x60001000 = false ∧ midSession.cfg.flashSize ≤ 0x400000 :=
  ⟨midSession_inv, ⟨_, rfl⟩, by decide +kernel, by decide +kernel, by decide⟩

theorem test_witness_PortRequestsAreAllowed : midSession.Inv ∧ ∃ t, step midSession = .next t :=
  ⟨midSession_inv, _, rfl⟩

theorem test_witness_ForeignStorageIsUntouched :
    midSession.Inv ∧ (∃ t, step midSession = .next t) ∧ inRegs midSession.cfg 0x60000FFE = false
      ∧ midSession.cfg.flashSize ≤ 0x400000 := ⟨midSession_inv, ⟨_, rfl⟩, by decide +kernel, by decide⟩

theorem test_witness_ExactlyOneResponse : ready.mode ≠ .halted ∧ ready.waiting = none := by decide

/-- `ready` where the second transaction from now is never answered. -/
def hanging : State := { answering [.stored, .stored] with silent := [1] }

/-- R64, R417: ERASE_REGION's erase is answered and its response is never flushed; MAIN is held until a reset, and RX
bytes are queued (R138). -/
theorem test_unanswered_response :
    (after (exec (.eraseRegion 0 (words [0x2000, 0x1000])) hanging)).map (fun t => (t.mode, t.waiting, t.trace))
      = some (.cmd, some (.tx [0xC0, 0x01, 0xD1, 0x02, 0, 0, 0, 0, 0, 0, 0, 0xC0]),
          [.flashErase 0x2000 0x1000 true, .unanswered (.tx [0xC0, 0x01, 0xD1, 0x02, 0, 0, 0, 0, 0, 0, 0, 0xC0])])
    ∧ (after (step { hanging with waiting := some (.delay 5), rxq := [0xC0], inbox := [.rxByte 7] })).map (·.rxq)
      = some [0xC0, 7] := by decide +kernel

theorem test_witness_UnansweredRequestHoldsMain :
    let s : State := { ready with waiting := some (.regRead 0x60000000) }
    s.cfg.ok = true ∧ s.waiting = some (.regRead 0x60000000) ∧ s.inbox.head? = none
      ∧ ({ s with inbox := [.reset] } : State).inbox.head? = some .reset
      ∧ ∃ t, step { s with inbox := [.rxByte 1] } = .next t := ⟨defaultConfig_ok, rfl, rfl, rfl, _, rfl⟩

/-- A request whose response is never flushed: its closing delimiter is next. -/
theorem test_witness_UnansweredRequestCutsTheStepOff :
    let s : State := { hanging with
      dstate := .inFrame, fbuf := encode defaultOpcodes (.eraseFlash 0 []), rxq := [0xC0] }
    s.waiting = none ∧ (after (step s)).bind (·.waiting)
      = some (.tx [0xC0, 0x01, 0xD0, 0x02, 0, 0, 0, 0, 0, 0, 0, 0xC0]) := by decide +kernel

/-- R34. -/
theorem test_fatal_codes :
    FatalCause.none.code = 0 ∧ (outputs (.next (raiseFatal .rxqOverflow ready)) = some [.fatalSignal 1])
      ∧ (outputs (.next (raiseFatal .flashFault ready)) = some [.fatalSignal 2])
      ∧ outputs (.next (raiseFatal .invariant ready)) = some [.fatalSignal 3] := by decide +kernel

/-! ### Commands -/

/-- A BEGIN's payload: 4096 bytes in blocks of 1024 at 0x10000. -/
def beginPayload : List Byte := words [4096, 4, 1024, 0x10000]

/-- The payload of a data command with four bytes, whose checksum is 0xEB. -/
def dataPayload4 : List Byte := words [4, 0, 0, 0] ++ [0x01, 0x02, 0x03, 0x04]

theorem test_witness_FlashFaultHalts :
    let s := answering [.fault]
    let f : State := { s with sess := session .flash 0x10000 8 4 }
    let d : State := { s with sess := session .defl 0x20000 1 0, infl := some inflateInit }
    let r : State := { streaming 4 4 with answers := [.fault] }
    (∀ j, s.portsAnswer j ∧ f.portsAnswer j ∧ d.portsAnswer j ∧ r.portsAnswer j)
      ∧ nextAnswer s = .fault ∧ nextAnswer f = .fault ∧ nextAnswer d = .fault ∧ nextAnswer r = .fault
      ∧ BeginAccepted (InFlash s) beginPayload s ∧ 0 < (beginErase beginPayload s).2
      ∧ DataAccepted .flash 0xEB dataPayload4 f ∧ f.sessionOk = true ∧ 0 < writtenLen dataPayload4 f
      ∧ DataAccepted .defl 0xD6 deflAB d ∧ d.sessionOk = true ∧ d.infl = some inflateInit
      ∧ 0 < min (inflateFeed d.cfg.inflateWindow inflateInit (dataBytes deflAB)).1.length d.sess.room
      ∧ ((words [0x2000, 0x1000]).length = 8 ∧ (wordAt (words [0x2000, 0x1000]) 0).toNat % s.cfg.sectorSize = 0
          ∧ (wordAt (words [0x2000, 0x1000]) 1).toNat % s.cfg.sectorSize = 0
          ∧ InFlash s (wordAt (words [0x2000, 0x1000]) 0).toNat (wordAt (words [0x2000, 0x1000]) 1).toNat
          ∧ wordAt (words [0x2000, 0x1000]) 1 ≠ 0)
      ∧ (let m := answering [.stored, .data [], .fault]
          let p := words [0x3FD000, 0x3000, 0, 0]
          m.portsAnswer 3 ∧ p.length = 16 ∧ InFlash m (wordAt p 0).toNat (wordAt p 1).toNat
            ∧ 2 < ((wordAt p 1).toNat + m.cfg.sectorSize - 1) / m.cfg.sectorSize
            ∧ (∀ k, k < 2 → answerAt m k ≠ .fault) ∧ answerAt m 2 = .fault)
      ∧ (r.cfg.ok = true ∧ r.mainNext ∧ r.mode = .stream ∧ r.rs = some (streamOf 4 4)
          ∧ (streamOf 4 4).ok r.cfg = true ∧ (streamOf 4 4).sent.toNat < (streamOf 4 4).len.toNat
          ∧ (streamOf 4 4).sent.toNat - (streamOf 4 4).acked.toNat < (streamOf 4 4).inflight.toNat) :=
  ⟨fun j => ⟨allAnswer _ _ rfl, allAnswer _ _ rfl, allAnswer _ _ rfl, allAnswer _ _ rfl⟩,
    rfl, rfl, rfl, rfl, ⟨by decide, by decide, by unfold InFlash; decide +kernel⟩, by decide +kernel,
    ⟨⟨by decide, by decide⟩, rfl, by decide, by decide, by decide +kernel, fun _ _ => by decide⟩, by decide +kernel,
    by decide +kernel,
    ⟨⟨by decide, by decide⟩, rfl, by decide, by decide, by decide +kernel, fun h => absurd rfl h⟩, by decide +kernel,
    rfl, by decide +kernel, ⟨by decide, by decide +kernel, by decide +kernel, by unfold InFlash; decide +kernel, by decide⟩,
    ⟨allAnswer _ _ rfl, by decide, by unfold InFlash; decide +kernel, by decide +kernel, by decide +kernel, rfl⟩,
    ⟨by decide +kernel, ⟨.inl rfl, rfl⟩, rfl, rfl, by decide +kernel, by decide, by decide⟩⟩

/-- An empty region at the very end of the flash, and a region that erases. -/
theorem test_witness_FlashBeginsOpenASession :
    (answering [.stored]).portsAnswer 2 ∧ BeginAccepted (InFlash (answering [.stored])) beginPayload (answering [.stored])
      ∧ (0 < (beginErase beginPayload (answering [.stored])).2 → nextAnswer (answering [.stored]) ≠ .fault)
      ∧ BeginAccepted (InFlash (answering [.fault])) (words [0, 0, 0x4000, 0x400000]) (answering [.fault])
      ∧ (beginErase (words [0, 0, 0x4000, 0x400000]) (answering [.fault])).2 = 0 :=
  ⟨allAnswer _ _ rfl, ⟨by decide, by decide, by unfold InFlash; decide +kernel⟩, fun _ h => (by cases h),
    ⟨by decide, by decide, by unfold InFlash; decide +kernel⟩, by decide +kernel⟩

theorem test_witness_EraseRangeCoversSectors :
    defaultConfig.ok = true ∧ 0x1800 + 0x900 ≤ defaultConfig.flashSize ∧ 0x3FFFFF + 1 ≤ defaultConfig.flashSize
      ∧ 0x400000 + 0 ≤ defaultConfig.flashSize := by decide +kernel

theorem test_witness_MemBeginOpensASession :
    ready.portsAnswer 1 ∧ BeginAccepted (fun a n => ramOk ready.cfg a n = true) (words [8, 1, 8, 0x3FFE0000]) ready :=
  ⟨allAnswer _ _ rfl, by decide, by decide, by decide +kernel⟩

/-- One payload for each check: too short, block size 0, block size one too large, one byte too many. -/
theorem test_witness_RefusedBeginLeavesNoSession :
    ready.portsAnswer 1 ∧ (words [0, 1, 0]).length ≠ 16
      ∧ ((words [0, 1, 0, 0]).length = 16 ∧ (wordAt (words [0, 1, 0, 0]) 2).toNat = 0)
      ∧ ((words [0, 1, 0x4001, 0]).length = 16 ∧ ready.cfg.maxWriteBlock < (wordAt (words [0, 1, 0x4001, 0]) 2).toNat)
      ∧ ((words [1, 1, 1, 0x400000]).length = 16 ∧ 1 ≤ (wordAt (words [1, 1, 1, 0x400000]) 2).toNat
          ∧ (wordAt (words [1, 1, 1, 0x400000]) 2).toNat ≤ ready.cfg.maxWriteBlock
          ∧ ¬InFlash ready (wordAt (words [1, 1, 1, 0x400000]) 3).toNat (wordAt (words [1, 1, 1, 0x400000]) 0).toNat
          ∧ ¬ramOk ready.cfg (wordAt (words [1, 1, 1, 0x400000]) 3).toNat
              (wordAt (words [1, 1, 1, 0x400000]) 0).toNat = true) :=
  ⟨allAnswer _ _ rfl, by decide, by decide, by decide, by decide, by decide, by decide, by unfold InFlash; decide +kernel,
    by decide +kernel⟩

/-- One case for each check of R205, in order, in a FLASH session: the sixth in a session that is full. -/
theorem test_witness_RefusedDataChangesNothing :
    let s : State := { ready with sess := session .flash 0x10000 8 4 }
    let full : State := { ready with sess := session .mem 0x3FFE0000 8 8 }
    s.portsAnswer 1 ∧ IsDataCommand (.flashData 0xEB dataPayload4) 0xEB dataPayload4 .flash .flashData
      ∧ IsDataCommand (.memData 0xEB dataPayload4) 0xEB dataPayload4 .mem .memData
      ∧ IsDataCommand (.flashDeflData 0xEB dataPayload4) 0xEB dataPayload4 .defl .flashDeflData
      ∧ ¬DataShape (words [0, 0, 0]) ∧ ¬DataShape (words [0, 0, 0, 0] ++ [1])
      ∧ (DataShape dataPayload4 ∧ ready.sess.kind ≠ .flash)
      ∧ (DataShape dataPayload4 ∧ ({ s with sess := { s.sess with bsize := 3 } } : State).sess.bsize.toNat < 4)
      ∧ (DataShape (words [0, 1, 0, 0]) ∧ s.sess.kind = .flash ∧ (wordAt (words [0, 1, 0, 0]) 0).toNat ≤ s.sess.bsize.toNat
          ∧ wordAt (words [0, 1, 0, 0]) 1 ≠ s.sess.nextSeq)
      ∧ (DataShape dataPayload4 ∧ s.sess.kind = .flash ∧ (wordAt dataPayload4 0).toNat ≤ s.sess.bsize.toNat
          ∧ wordAt dataPayload4 1 = s.sess.nextSeq
          ∧ (0x1EB : Word) ≠ (csum s.cfg.csumSeed (dataBytes dataPayload4)).setWidth 32)
      ∧ (DataShape dataPayload4 ∧ full.sess.kind = .mem ∧ (wordAt dataPayload4 0).toNat ≤ full.sess.bsize.toNat
          ∧ wordAt dataPayload4 1 = full.sess.nextSeq
          ∧ (0xEB : Word) = (csum full.cfg.csumSeed (dataBytes dataPayload4)).setWidth 32
          ∧ (wordAt dataPayload4 0).toNat ≠ 0 ∧ full.sess.written = full.sess.total) :=
  ⟨allAnswer _ _ rfl, .inl ⟨rfl, rfl, rfl⟩, .inr (.inl ⟨rfl, rfl, rfl⟩), .inr (.inr ⟨rfl, rfl, rfl⟩), by unfold DataShape; decide +kernel,
    by unfold DataShape; decide +kernel, by unfold DataShape; decide +kernel, by unfold DataShape; decide +kernel,
    by unfold DataShape; decide +kernel, by unfold DataShape; decide +kernel, by unfold DataShape; decide +kernel⟩

/-- A last block that is trimmed, and an empty block in a full session. -/
theorem test_witness_FlashDataWritesAndAdvances :
    let s : State := { answering [.stored] with sess := session .flash 0x10000 6 4 }
    let full : State := { answering [] with sess := session .flash 0x10000 6 6 }
    s.portsAnswer 2 ∧ (DataAccepted .flash 0xEB dataPayload4 s ∧ s.sessionOk = true ∧ s.flash.wf = true
        ∧ (0 < writtenLen dataPayload4 s → nextAnswer s ≠ .fault) ∧ writtenLen dataPayload4 s = 2)
      ∧ (DataAccepted .flash 0xEF (words [0, 0, 0, 0]) full ∧ full.sessionOk = true
          ∧ writtenLen (words [0, 0, 0, 0]) full = 0) :=
  ⟨allAnswer _ _ rfl, ⟨⟨⟨by decide, by decide⟩, rfl, by decide, by decide, by decide +kernel, fun _ _ => by decide⟩, by decide +kernel,
      rfl, fun _ h => (by cases h), by decide +kernel⟩,
    ⟨⟨⟨by decide, by decide⟩, rfl, by decide, by decide, by decide +kernel, fun _ h => absurd rfl h⟩, by decide +kernel,
      by decide +kernel⟩⟩

theorem test_witness_MemDataWritesAndAdvances :
    let s : State := { ready with sess := session .mem 0x3FFE0000 8 7 }
    s.portsAnswer 2 ∧ DataAccepted .mem 0xEB dataPayload4 s ∧ s.sessionOk = true ∧ s.ram.wf = true ∧ writtenLen dataPayload4 s = 1 :=
  ⟨allAnswer _ _ rfl, ⟨⟨by decide, by decide⟩, rfl, by decide, by decide, by decide +kernel, fun _ _ => by decide⟩, by decide +kernel,
    rfl, by decide +kernel⟩

theorem deflAB_accepted (total : Nat) : DataAccepted .defl 0xD6 deflAB (deflSession total) :=
  ⟨⟨by decide, by decide⟩, rfl, (by decide : (wordAt deflAB 0).toNat ≤ 1024), (by decide : wordAt deflAB 1 = 0),
    (by decide +kernel : (0xD6 : Word) = (csum 0xEF (dataBytes deflAB)).setWidth 32), fun h => absurd rfl h⟩

theorem test_witness_DeflDataWritesAndAdvances :
    (deflSession 2).portsAnswer 2 ∧ DataAccepted .defl 0xD6 deflAB (deflSession 2) ∧ (deflSession 2).sessionOk = true
      ∧ (deflSession 2).flash.wf = true ∧ (deflSession 2).infl = some inflateInit
      ∧ nextAnswer (deflSession 2) ≠ .fault
      ∧ ∃ out st', inflateFeed (deflSession 2).cfg.inflateWindow inflateInit (dataBytes deflAB) = (out, st')
          ∧ out.length ≤ (deflSession 2).sess.room ∧ st'.phase ≠ .error :=
  ⟨allAnswer _ _ rfl, deflAB_accepted 2, by decide +kernel, rfl, rfl, by decide, _, _, rfl, by decide +kernel, by decide +kernel⟩

/-- The payload of a FLASH_DEFL_DATA whose stream has the wrong trailer. -/
def deflBad : List Byte := words [13, 0, 0, 0] ++ storedAB.dropLast ++ [0x85]

theorem test_witness_DeflDataAbortsAfterWriting :
    (deflSession 1).portsAnswer 2 ∧ (DataAccepted .defl 0xD6 deflAB (deflSession 1) ∧ (deflSession 1).sessionOk = true
      ∧ nextAnswer (deflSession 1) ≠ .fault
      ∧ (deflSession 1).sess.room
          < (inflateFeed (deflSession 1).cfg.inflateWindow inflateInit (dataBytes deflAB)).1.length)
    ∧ (DataAccepted .defl 0xD7 deflBad (deflSession 2) ∧ (deflSession 2).sessionOk = true
        ∧ (inflateFeed (deflSession 2).cfg.inflateWindow inflateInit (dataBytes deflBad)).1.length
            ≤ (deflSession 2).sess.room
        ∧ (inflateFeed (deflSession 2).cfg.inflateWindow inflateInit (dataBytes deflBad)).2.phase = .error) :=
  ⟨allAnswer _ _ rfl, ⟨deflAB_accepted 1, by decide +kernel, by decide, by decide +kernel⟩,
    ⟨⟨⟨by decide, by decide⟩, rfl, by decide, by decide, by decide +kernel, fun h => absurd rfl h⟩, by decide +kernel,
      by decide +kernel, by decide +kernel⟩⟩

theorem test_witness_FlashEndsCloseTheSession :
    (deflSession 2).portsAnswer 1 ∧ (words [0]).length = 4 ∧ (words [1]).length = 4 ∧ wordAt (words [0]) 0 = 0 ∧ wordAt (words [1]) 0 ≠ 0
      ∧ ({ ready with sess := session .flash 0 4 0 } : State).sess.kind = .flash
      ∧ (deflSession 2).sess.kind = .defl :=
  ⟨allAnswer _ _ rfl, by decide⟩

theorem test_witness_MemEndsCloseTheSession :
    let s : State := { ready with sess := session .mem 0x3FFE0000 8 0 }
    s.portsAnswer 1 ∧ (words [0, 1]).length = 8 ∧ (words [1, 1]).length = 8 ∧ s.sess.kind = .mem ∧ wordAt (words [0, 1]) 0 = 0
      ∧ wordAt (words [1, 1]) 0 ≠ 0 :=
  ⟨allAnswer _ _ rfl, by decide⟩

theorem test_witness_RefusedEndChangesNothing :
    (deflSession 2).portsAnswer 1 ∧ (words []).length ≠ 4 ∧ (words [0, 0]).length ≠ 4 ∧ (words [0]).length ≠ 8
      ∧ ((words [0]).length = 4 ∧ (deflSession 2).sess.kind ≠ .flash)
      ∧ ((words [0, 0]).length = 8 ∧ (deflSession 2).sess.kind ≠ .mem) :=
  ⟨allAnswer _ _ rfl, by decide⟩

theorem test_witness_SyncDropsTheSession : (deflSession 2).portsAnswer 1 := allAnswer _ _ rfl

theorem test_witness_SingleShotCommandsIgnoreTheSession :
    ∃ i : Instr, i = .readReg 0 (words [0x60000000]) := ⟨_, rfl⟩

/-- Two blocks of which one is empty, and a region of six bytes that starts inside a sector. -/
theorem test_witness_FlashSessionHoldsAndVerifiesTheBytesSent :
    let blocks : List (List Byte) := [[1, 2, 3, 4], [], [5, 6]]
    let p1 := words [6, 3, 4, 0x1003]
    let p2 := words [0x1003, 6, 0, 0]
    let s := answering (List.replicate 10 .stored)
    s.portsAnswer (3 + 2 * blocks.length + blocks.flatten.length) ∧ s.cfg.ok = true ∧ s.flash.wf = true ∧ BeginAccepted (InFlash s) p1 s
      ∧ (∀ d ∈ blocks, d.length ≤ (wordAt p1 2).toNat) ∧ blocks.flatten.length = (wordAt p1 0).toNat
      ∧ p2.length = 16 ∧ wordAt p2 0 = wordAt p1 3 ∧ wordAt p2 1 = wordAt p1 0
      ∧ (∀ j, j < 1 + blocks.length + blocks.flatten.length → answerAt s j = .stored) :=
  ⟨allAnswer _ _ rfl, by decide +kernel, rfl, ⟨by decide, by decide, by unfold InFlash; decide +kernel⟩, by decide, by decide, by decide,
    by decide, by decide, by decide +kernel⟩

/-- The largest packet and the smallest window, at the very end of the flash. -/
theorem test_witness_ReadFlashOpensTheStream :
    let p := words [0x400000, 0, 4096, 1]
    ready.portsAnswer 1 ∧ p.length = 16 ∧ InFlash ready (wordAt p 0).toNat (wordAt p 1).toNat ∧ 1 ≤ (wordAt p 2).toNat
      ∧ (wordAt p 2).toNat ≤ ready.cfg.readPktMax ∧ wordAt p 3 ≠ 0 :=
  ⟨allAnswer _ _ rfl, by decide, by unfold InFlash; decide +kernel, by decide, by decide, by decide⟩

theorem test_witness_RefusedSingleShotChangesNothing :
    ready.portsAnswer 1 ∧ (words []).length ≠ 16 ∧ (words []).length ≠ 8 ∧ (words []).length ≠ 4 ∧ [(0 : Byte)].length ≠ 0
      ∧ ((words [0x400000, 1, 0, 0]).length = 16
          ∧ ¬InFlash ready (wordAt (words [0x400000, 1, 0, 0]) 0).toNat (wordAt (words [0x400000, 1, 0, 0]) 1).toNat)
      ∧ ((words [0, 1, 4097, 0]).length = 16
          ∧ InFlash ready (wordAt (words [0, 1, 4097, 0]) 0).toNat (wordAt (words [0, 1, 4097, 0]) 1).toNat
          ∧ ready.cfg.readPktMax < (wordAt (words [0, 1, 4097, 0]) 2).toNat ∧ wordAt (words [0, 1, 4097, 0]) 3 = 0)
      ∧ ((words [0x2001, 0x1000]).length = 8 ∧ (wordAt (words [0x2001, 0x1000]) 0).toNat % ready.cfg.sectorSize ≠ 0)
      ∧ ((words [0x400000, 0x1000]).length = 8
          ∧ ¬InFlash ready (wordAt (words [0x400000, 0x1000]) 0).toNat (wordAt (words [0x400000, 0x1000]) 1).toNat)
      ∧ ((words [0x60001000]).length = 4 ∧ inRegs ready.cfg (wordAt (words [0x60001000]) 0).toNat = false)
      ∧ ((words [0x60000002]).length = 4 ∧ inRegs ready.cfg (wordAt (words [0x60000002]) 0).toNat = false)
      ∧ (words [0, 0, 0]).length < 16 ∧ (words [0, 0, 0, 0, 0]).length % 16 ≠ 0
      ∧ (16 ≤ (words [0x60000000, 0, 0, 0, 0, 0, 0, 0]).length ∧ (words [0x60000000, 0, 0, 0, 0, 0, 0, 0]).length % 16 = 0
          ∧ ∃ j, j < (words [0x60000000, 0, 0, 0, 0, 0, 0, 0]).length / 16
              ∧ inRegs ready.cfg (wordAt (words [0x60000000, 0, 0, 0, 0, 0, 0, 0]) (4 * j)).toNat = false)
      ∧ ((words [1, 0]).length = 8 ∧ ({ ready with transport := .usbOtg } : State).transport ≠ .uart)
      ∧ ((words [0, 0]).length = 8 ∧ ready.transport = .uart ∧ wordAt (words [0, 0]) 0 = 0) :=
  ⟨allAnswer _ _ rfl, by decide, by decide, by decide, by decide, by unfold InFlash; decide +kernel, by unfold InFlash; decide +kernel,
    by decide +kernel, by unfold InFlash; decide +kernel, by decide +kernel, by decide +kernel, by decide, by decide,
    ⟨by decide, by decide, 1, by decide, by decide +kernel⟩, by decide, by decide⟩

theorem test_witness_StreamSendsTheNextPacket :
    let s : State := { streaming 4 4 with answers := [.stored] }
    s.portsAnswer 2 ∧ s.cfg.ok = true ∧ s.mainNext ∧ s.mode = .stream ∧ s.rs = some (streamOf 4 4) ∧ (streamOf 4 4).ok s.cfg = true
      ∧ (streamOf 4 4).sent.toNat < (streamOf 4 4).len.toNat
      ∧ (streamOf 4 4).sent.toNat - (streamOf 4 4).acked.toNat < (streamOf 4 4).inflight.toNat
      ∧ nextAnswer s ≠ .fault :=
  ⟨allAnswer _ _ rfl, by decide +kernel, ⟨.inl rfl, rfl⟩, rfl, rfl, by decide +kernel, by decide, by decide, by decide⟩

/-- An empty frame; the two ends of the range an acknowledgement may have; and bad acknowledgements: one above what
was sent, one below, one of five bytes. -/
theorem test_witness_AcknowledgementsAreHandled :
    (∀ f, (streamEnding 8 4 f).portsAnswer 1) ∧ (∀ f, (streamEnding 8 4 f).AtFrameEnd f [0x55] ∧ (streamOf 8 4).Reads (streamEnding 8 4 f))
      ∧ (∀ f ∈ [words [4], words [8]], f.length = 4 ∧ (streamOf 8 4).acked.toNat ≤ (le32 f 0).toNat
          ∧ (le32 f 0).toNat ≤ (streamOf 8 4).sent.toNat)
      ∧ ∀ f ∈ [words [9], words [3], words [8] ++ [0]],
          f ≠ [] ∧ ¬(f.length = 4 ∧ (streamOf 8 4).acked.toNat ≤ (le32 f 0).toNat
            ∧ (le32 f 0).toNat ≤ (streamOf 8 4).sent.toNat) :=
  ⟨fun f => allAnswer _ _ rfl, fun f => ⟨streamEnding_atFrameEnd 8 4 f, (streamEnding_reads f).2⟩, by decide, by decide⟩

theorem test_witness_StreamEndsWithTheDigest :
    (streaming 8 8).portsAnswer 1 ∧ (streaming 8 8).cfg.ok = true ∧ (streaming 8 8).mainNext ∧ (streaming 8 8).mode = .stream
      ∧ (streaming 8 8).rs = some (streamOf 8 8) ∧ (streamOf 8 8).ok defaultConfig = true
      ∧ (streamOf 8 8).acked = (streamOf 8 8).len :=
  ⟨allAnswer _ _ rfl, defaultConfig_ok, ⟨.inl rfl, rfl⟩, rfl, rfl, by decide +kernel, by decide⟩

theorem test_witness_ErasesEraseTheirRegion :
    (answering [.stored]).portsAnswer 2 ∧ nextAnswer (answering [.stored]) ≠ .fault
      ∧ ((words [0x3FF000, 0x1000]).length = 8 ∧ (wordAt (words [0x3FF000, 0x1000]) 0).toNat % ready.cfg.sectorSize = 0
          ∧ (wordAt (words [0x3FF000, 0x1000]) 1).toNat % ready.cfg.sectorSize = 0
          ∧ InFlash ready (wordAt (words [0x3FF000, 0x1000]) 0).toNat (wordAt (words [0x3FF000, 0x1000]) 1).toNat
          ∧ wordAt (words [0x3FF000, 0x1000]) 1 ≠ 0)
      ∧ ((words [0x400000, 0]).length = 8 ∧ (wordAt (words [0x400000, 0]) 0).toNat % ready.cfg.sectorSize = 0
          ∧ (wordAt (words [0x400000, 0]) 0).toNat ≤ ready.cfg.flashSize ∧ wordAt (words [0x400000, 0]) 1 = 0) :=
  ⟨allAnswer _ _ rfl, by decide, by unfold InFlash; decide +kernel, by decide +kernel⟩

/-- A range that ends with a short read, and an empty one. -/
theorem test_witness_SpiFlashMd5DigestsTheRange :
    let s := answering [.stored, .data [1, 2]]
    s.portsAnswer 3 ∧ (s.cfg.ok = true ∧ (words [0x1000, 4097, 0, 0]).length = 16
      ∧ InFlash s (wordAt (words [0x1000, 4097, 0, 0]) 0).toNat (wordAt (words [0x1000, 4097, 0, 0]) 1).toNat
      ∧ (4097 + s.cfg.sectorSize - 1) / s.cfg.sectorSize = 2 ∧ ∀ j, j < 2 → answerAt s j ≠ .fault)
    ∧ (words [0x400000, 0, 0, 0]).length = 16
    ∧ InFlash s (wordAt (words [0x400000, 0, 0, 0]) 0).toNat (wordAt (words [0x400000, 0, 0, 0]) 1).toNat :=
  ⟨allAnswer _ _ rfl, ⟨by decide +kernel, by decide, by unfold InFlash; decide +kernel, by decide +kernel, by decide +kernel⟩, by decide,
    by unfold InFlash; decide +kernel⟩

/-- The first and the last register of an allowed range. -/
theorem test_witness_ReadRegAnswersTheWord :
    ready.portsAnswer 2 ∧ ((words [0x60000000]).length = 4 ∧ inRegs ready.cfg (wordAt (words [0x60000000]) 0).toNat = true)
      ∧ ((words [0x60000FFC]).length = 4 ∧ inRegs ready.cfg (wordAt (words [0x60000FFC]) 0).toNat = true)
      ∧ nextAnswer (answering [.word 5]) = .word 5 ∧ nextAnswer (answering [.stored]) = .stored :=
  ⟨allAnswer _ _ rfl, by decide +kernel⟩

/-- One masked entry; two direct entries on one register; and two masked entries on one register. -/
theorem test_witness_WriteRegWritesItsEntries :
    let one := words [0x60000004, 1, 0xFF, 5]
    let two := words [0x60000004, 1, 0xFFFFFFFF, 0, 0x60000004, 2, 0xFFFFFFFF, 0]
    let both := words [0x60000004, 1, 0xFF, 0, 0x60000004, 0x200, 0xF00, 0]
    ready.portsAnswer 7 ∧ ready.regs.wf = true
      ∧ (16 ≤ one.length ∧ one.length % 16 = 0
          ∧ (∀ j, j < one.length / 16 → inRegs ready.cfg (wordAt one (4 * j)).toNat = true) ∧ one.length = 16)
      ∧ (16 ≤ two.length ∧ two.length % 16 = 0
          ∧ (∀ j, j < two.length / 16 → inRegs ready.cfg (wordAt two (4 * j)).toNat = true)
          ∧ (∀ j, j < two.length / 16 → wordAt two (4 * j + 2) = 0xFFFFFFFF))
      ∧ (16 ≤ both.length ∧ both.length % 16 = 0
          ∧ (∀ j, j < both.length / 16 → inRegs ready.cfg (wordAt both (4 * j)).toNat = true)
          ∧ (registerWrites (answering [.stored, .stored]) both 2 0 ready.regs 0).1.cells = [(0x60000004, 0x201)]) :=
  ⟨allAnswer _ _ rfl, by decide +kernel⟩

theorem test_witness_ChangeBaudrateSignalsAfterResponding :
    ready.portsAnswer 1 ∧ (words [1, 0]).length = 8 ∧ ready.transport = .uart ∧ wordAt (words [1, 0]) 0 ≠ 0 :=
  ⟨allAnswer _ _ rfl, by decide⟩

theorem test_witness_ChecksumProperties :
    [(1 : Byte), 2].Perm [2, 1] ∧ 1 < [(1 : Byte), 2].length ∧ (3 : Byte) ≠ byteAt [1, 2] 1 ∧ 0 < 1 := by decide

theorem test_witness_InflateKeepsHistoryAndAdler :
    inflateInit.hist.length ≤ 0 ∧ ∃ out st', inflateFeed 0 inflateInit [0x78] = (out, st') := ⟨by decide, _, _, rfl⟩

end Sys2Proof.Tests
end

section
/-! The output record of the inflater: what a feed leaves in the counter, the history and the Adler-32 (R320, R338,
R340). Items put nothing out, one byte, or the bytes of a copy; a feed is a sequence of items. -/

namespace Sys2Proof

/-- To keep the last n elements after more have arrived, those before the last n may be dropped already. -/
theorem rtake_append_rtake {α : Type} (n : Nat) (a b : List α) : (a.rtake n ++ b).rtake n = (a ++ b).rtake n := by
  unfold List.rtake
  rw [← List.drop_append_of_le_length (Nat.sub_le a.length n), List.drop_drop]
  congr 1
  simp only [List.length_drop, List.length_append]
  omega

theorem rtake_of_length_le {α : Type} {n : Nat} {a : List α} (h : a.length ≤ n) : a.rtake n = a := by
  simp [List.rtake, Nat.sub_eq_zero_of_le h]

theorem length_rtake_le {α : Type} (n : Nat) (a : List α) : (a.rtake n).length ≤ n := by
  simp only [List.rtake, List.length_drop]
  omega

namespace Machine

/-- Between `st` and `st'` the inflater has recorded exactly the bytes `out` as its output: they are counted in 32 bits
(R7), the last `window` bytes of all output are the history, and they are folded into the Adler-32 (R338, R340). -/
structure Inflate.Records (window : Nat) (st : Inflate) (out : List Byte) (st' : Inflate) : Prop where
  outTotal : st'.outTotal = st.outTotal + BitVec.ofNat 32 out.length
  hist : st'.hist = (st.hist ++ out).rtake window
  adler : st'.adler = out.foldl adlerByte st.adler

/-- The counter, the history and the Adler-32 are as they were. -/
def Inflate.SameRecord (st st' : Inflate) : Prop :=
  st'.outTotal = st.outTotal ∧ st'.hist = st.hist ∧ st'.adler = st.adler

namespace Inflate

variable {window : Nat} {st st' st'' : Inflate} {a b : List Byte}

theorem Records.length_hist_le (h : Records window st a st') : st'.hist.length ≤ window :=
  h.hist ▸ length_rtake_le window _

theorem SameRecord.records_nil (h : SameRecord st st') (hw : st.hist.length ≤ window) :
    Records window st [] st' := by
  obtain ⟨htotal, hhist, hadler⟩ := h
  exact ⟨by simp [htotal], by simp [hhist, rtake_of_length_le hw], hadler⟩

theorem Records.trans (h : Records window st a st') (h' : Records window st' b st'') :
    Records window st (a ++ b) st'' where
  outTotal := by rw [h'.outTotal, h.outTotal, List.length_append, BitVec.ofNat_add, BitVec.add_assoc]
  hist := by rw [h'.hist, h.hist, rtake_append_rtake, List.append_assoc]
  adler := by rw [h'.adler, h.adler, List.foldl_append]

/-- A step of which the record shows nothing, before one that puts `a` out. -/
theorem SameRecord.trans_records (h : SameRecord st st') (h' : Records window st' a st'') :
    Records window st a st'' := by
  obtain ⟨htotal, hhist, hadler⟩ := h
  exact ⟨htotal ▸ h'.outTotal, hhist ▸ h'.hist, hadler ▸ h'.adler⟩

/-- A step of which the record shows nothing, after one that puts `a` out. -/
theorem Records.trans_sameRecord (h : Records window st a st') (h' : SameRecord st' st'') :
    Records window st a st'' := by
  obtain ⟨htotal, hhist, hadler⟩ := h'
  exact ⟨htotal ▸ h.outTotal, hhist ▸ h.hist, hadler ▸ h.adler⟩

end Inflate

open Inflate

/-! ## Output -/

theorem sameRecord_blockEnd (st : Inflate) : SameRecord st (blockEnd st) := ⟨rfl, rfl, rfl⟩

/-- Taking bits, and what is pending, are no part of the record. -/
theorem sameRecord_bits (st : Inflate) (r : List Bool) (p : InflatePending) :
    SameRecord st { st with bits := r, pend := p } := ⟨rfl, rfl, rfl⟩

theorem outputByte_records (window : Nat) (st : Inflate) (x : Byte) :
    Records window st [x] (outputByte window st x) where
  outTotal := rfl
  hist := by simp [outputByte, List.rtake]
  adler := rfl

/-- A copy records the bytes it outputs; a copy of no bytes asks that the history is within the window already. -/
theorem copyBytes_records (window d n : Nat) (st : Inflate) (hw : st.hist.length ≤ window) :
    Records window st (copyBytes window d n st).2 (copyBytes window d n st).1 := by
  induction n generalizing st with
  | zero => exact SameRecord.records_nil ⟨rfl, rfl, rfl⟩ hw
  | succ n ih =>
    have hx := outputByte_records window st (st.hist.getD (st.hist.length - d) 0)
    exact hx.trans (ih _ hx.length_hist_le)

/-! ## Items that output nothing

Headers, code lengths and the trailer: every branch that reads the item sets `bits`, `phase`, `final`, `pend` or the
codes, and no branch sets the counter, the history or the Adler-32. -/

/-- An item that, where it is read, outputs nothing and leaves the record as it was. -/
def ItemResult.Silent (st : Inflate) : ItemResult → Prop
  | .more | .bad => True
  | .item st' out => out = [] ∧ SameRecord st st'

@[simp] theorem silent_more (st : Inflate) : ItemResult.more.Silent st := trivial
@[simp] theorem silent_bad (st : Inflate) : ItemResult.bad.Silent st := trivial
@[simp] theorem silent_item {st st' : Inflate} {out : List Byte} :
    (ItemResult.item st' out).Silent st ↔ out = [] ∧ SameRecord st st' := Iff.rfl

theorem zlibHeaderItem_silent (st : Inflate) : (zlibHeaderItem st).Silent st := by
  unfold zlibHeaderItem
  repeat' split
  all_goals simp [SameRecord]

theorem blockHeaderItem_silent (st : Inflate) : (blockHeaderItem st).Silent st := by
  unfold blockHeaderItem
  repeat' split
  all_goals simp [SameRecord]

theorem storedHeaderItem_silent (st : Inflate) : (storedHeaderItem st).Silent st := by
  unfold storedHeaderItem
  repeat' split
  all_goals simp [SameRecord, blockEnd]

theorem dynamicCountsItem_silent (st : Inflate) : (dynamicCountsItem st).Silent st := by
  unfold dynamicCountsItem
  repeat' split
  all_goals simp [SameRecord]

theorem codeLengthLengthItem_silent (nlit ndist nclen : Nat) (got : List Nat) (st : Inflate) :
    (codeLengthLengthItem nlit ndist nclen got st).Silent st := by
  unfold codeLengthLengthItem
  split
  · simp
  · dsimp only
    repeat' split
    all_goals simp [SameRecord]

theorem addLengths_silent (nlit ndist : Nat) (code : List CodeEntry) (got more : List Nat) (r : List Bool)
    (st : Inflate) : (addLengths nlit ndist code got more r st).Silent st := by
  unfold addLengths
  dsimp only
  repeat' split
  all_goals simp [SameRecord]

theorem codeLengthItem_silent (nlit ndist : Nat) (code : List CodeEntry) (got : List Nat) (st : Inflate) :
    (codeLengthItem nlit ndist code got st).Silent st := by
  unfold codeLengthItem
  repeat' split
  all_goals simp [addLengths_silent]

theorem trailerItem_silent (st : Inflate) : (trailerItem st).Silent st := by
  unfold trailerItem
  repeat' split
  all_goals simp [SameRecord]

/-! ## Items that output -/

/-- An item that, where it is read, records what it outputs. -/
def ItemResult.Recorded (window : Nat) (st : Inflate) : ItemResult → Prop
  | .more | .bad => True
  | .item st' out => Records window st out st'

theorem recorded_item {window : Nat} {st st' : Inflate} {out : List Byte} :
    (ItemResult.item st' out).Recorded window st ↔ Records window st out st' := Iff.rfl

theorem ItemResult.Silent.recorded {window : Nat} {st : Inflate} {r : ItemResult} (h : r.Silent st)
    (hw : st.hist.length ≤ window) : r.Recorded window st := by
  cases r with
  | more | bad => trivial
  | item st' out =>
    obtain ⟨rfl, hsame⟩ := h
    exact hsame.records_nil hw

/-- A byte output after some bits were taken. -/
theorem outputByte_bits_records (window : Nat) (st : Inflate) (r : List Bool) (x : Byte) :
    Records window st [x] (outputByte window { st with bits := r } x) :=
  (sameRecord_bits st r st.pend).trans_records (outputByte_records window _ x)

theorem storedByteItem_recorded (window left : Nat) (st : Inflate) :
    (storedByteItem window left st).Recorded window st := by
  unfold storedByteItem
  split
  · trivial
  next v r _ =>
    have hx := outputByte_bits_records window st r (BitVec.ofNat 8 v)
    dsimp only
    split
    · exact hx.trans_sameRecord (sameRecord_blockEnd _)
    · exact hx.trans_sameRecord ⟨rfl, rfl, rfl⟩

/-- A literal outputs its byte; the end of a block and a length output nothing. -/
theorem literalItem_recorded (window : Nat) (st : Inflate) (hw : st.hist.length ≤ window) :
    (literalItem window st).Recorded window st := by
  unfold literalItem
  split
  · trivial
  · trivial
  next s r _ =>
    split
    · exact outputByte_bits_records window st r (BitVec.ofNat 8 s)
    · refine ItemResult.Silent.recorded ?_ hw
      repeat' split
      all_goals simp [SameRecord, blockEnd]

/-- A distance outputs its copy, after its bits were taken and the pending length with them. -/
theorem distanceItem_recorded (window len : Nat) (st : Inflate) (hw : st.hist.length ≤ window) :
    (distanceItem window len st).Recorded window st := by
  have hcopy : ∀ (d : Nat) (r : List Bool),
      Records window st (copyBytes window d len { st with bits := r, pend := .none }).2
        (copyBytes window d len { st with bits := r, pend := .none }).1 :=
    fun d r => (sameRecord_bits st r .none).trans_records (copyBytes_records window d len _ hw)
  unfold distanceItem
  split
  · trivial
  · trivial
  split
  · trivial
  split
  · trivial
  split
  · trivial
  · exact hcopy _ _

theorem inflateItem_recorded (window : Nat) (st : Inflate) (hw : st.hist.length ≤ window) :
    (inflateItem window st).Recorded window st := by
  unfold inflateItem
  cases st.phase with
  | zhdr => exact (zlibHeaderItem_silent st).recorded hw
  | blkhdr => exact (blockHeaderItem_silent st).recorded hw
  | stored =>
    cases st.pend with
    | storedBytes left => exact storedByteItem_recorded window left st
    | _ => exact (storedHeaderItem_silent st).recorded hw
  | dynhdr =>
    cases st.pend with
    | none => exact (dynamicCountsItem_silent st).recorded hw
    | codeLengthLengths nlit ndist nclen got =>
      exact (codeLengthLengthItem_silent nlit ndist nclen got st).recorded hw
    | codeLengths nlit ndist code got => exact (codeLengthItem_silent nlit ndist code got st).recorded hw
    | _ => trivial
  | codes =>
    cases st.pend with
    | none => exact literalItem_recorded window st hw
    | copyLength len => exact distanceItem_recorded window len st hw
    | _ => trivial
  | trailer => exact (trailerItem_silent st).recorded hw
  | done => dsimp only; split <;> trivial
  | error => trivial

/-! ## A feed -/

theorem inflateItems_records (window n : Nat) (st : Inflate) (hw : st.hist.length ≤ window) :
    Records window st (inflateItems window n st).1 (inflateItems window n st).2 := by
  induction n generalizing st with
  | zero => exact SameRecord.records_nil ⟨rfl, rfl, rfl⟩ hw
  | succ n ih =>
    have hitem := inflateItem_recorded window st hw
    unfold inflateItems
    cases hr : inflateItem window st with
    | more => exact SameRecord.records_nil ⟨rfl, rfl, rfl⟩ hw
    | bad => exact SameRecord.records_nil ⟨rfl, rfl, rfl⟩ hw
    | item st' out =>
      rw [hr, recorded_item] at hitem
      exact hitem.trans (ih st' hitem.length_hist_le)

theorem inflateFeed_records (window : Nat) (st : Inflate) (data : List Byte) (hw : st.hist.length ≤ window) :
    Records window st (inflateFeed window st data).1 (inflateFeed window st data).2 := by
  have hnil : Records window st [] st := SameRecord.records_nil ⟨rfl, rfl, rfl⟩ hw
  unfold inflateFeed
  split
  · exact hnil
  split
  · exact hnil
  · exact (sameRecord_bits st (st.bits ++ streamBits data) st.pend).trans_records (inflateItems_records window _ _ hw)

/-- Settles O60: the three clauses are what a feed records, by induction over its items. -/
theorem inflateKeepsHistoryAndAdler : Obligations.InflateKeepsHistoryAndAdler := by
  unfold Obligations.InflateKeepsHistoryAndAdler
  intro window st st' data out hw hfeed
  have hrec := inflateFeed_records window st data hw
  rw [hfeed] at hrec
  exact ⟨hrec.outTotal, hrec.hist, hrec.adler⟩

end Machine

end Sys2Proof
end

section
/-! What the rules do to the parts of the state that the invariant speaks of: the session and its region, the requests
a rule makes of a port, the digest of a stream, and the decoder's buffer. -/

namespace Sys2Proof.Machine

/-! ## The storage -/

theorem readCells_of_forall_ne {w : Nat} {fill : BitVec w} {l : List (Nat × BitVec w)} {a : Nat}
    (h : ∀ c ∈ l, c.1 ≠ a) : readCells fill l a = fill := by
  induction l with
  | nil => rfl
  | cons c r ih => rw [readCells, if_neg (h c (.head _)), ih fun d hd => h d (.tail _ hd)]

/-- Beyond its end a storage reads as unlisted. -/
theorem Store.read_of_within {w : Nat} {fill : BitVec w} {m : Store w fill} {n a : Nat} (h : m.within n = true)
    (ha : n ≤ a) : m.read a = fill :=
  readCells_of_forall_ne fun c hc => by have := (Store.within_iff m n).mp h c hc; omega

/-- Of a write to the RAM what lies past 2^32 is cut off (log 25). -/
theorem Store.within_writeBytes_take {fill : Byte} {m : Memory fill} {n : Nat} (h : m.within n = true) (a : Nat)
    (b : List Byte) : (m.writeBytes a (b.take (n - a))).within n = true := by
  rcases Nat.le_total a n with ha | ha
  · exact Store.within_writeBytes h (by rw [List.length_take]; omega)
  · rw [Nat.sub_eq_zero_of_le ha, List.take_zero]; exact h

/-! ## The session -/

/-- R31 clause by clause. -/
theorem sessionOk_iff (s : State) :
    s.sessionOk = true ↔
      (s.sess.kind = .none ∨ (s.sess.written.toNat ≤ s.sess.total.toNat ∧ 1 ≤ s.sess.bsize.toNat
          ∧ s.sess.bsize.toNat ≤ s.cfg.maxWriteBlock ∧ s.sess.regionOk s.cfg = true))
        ∧ (s.infl.isSome = true ↔ s.sess.kind = .defl) := by
  have hinfl : inflateMatches s.sess s.infl = true ↔ (s.infl.isSome = true ↔ s.sess.kind = .defl) := by
    rw [inflateMatches, beq_iff_eq, Bool.eq_iff_iff, beq_iff_eq]
  rw [State.sessionOk, Bool.and_eq_true, hinfl]
  simp [Session.ok, and_assoc]

/-- What the invariant says of the session: R31, and that none is open before the greeting (R402). -/
def State.SessionInv (s : State) : Prop := s.sessionOk = true ∧ (s.mode = .boot → s.sess.kind = .none)

theorem discardSession_sessionInv (s : State) : (discardSession s).SessionInv :=
  ⟨(sessionOk_iff _).mpr ⟨.inl rfl, by simp⟩, fun _ => rfl⟩

/-- A session of a region that was checked, with the inflater its kind asks for, keeps R31. -/
theorem openSession_sessionOk {kind : SessionKind} {region : Nat → Nat → Bool} {p : List Byte} {s : State}
    (hp : BeginAccepted (fun a n => region a n = true) p s)
    (hregion : ∀ q : Session, q.kind = kind → region q.base.toNat q.total.toNat = true → q.regionOk s.cfg = true)
    {infl : Option Inflate} (hinfl : infl.isSome = true ↔ kind = .defl) :
    ({ s with sess := openSession s.cfg kind p, infl := infl } : State).sessionOk = true :=
  (sessionOk_iff _).mpr
    ⟨.inr ⟨Nat.zero_le _, hp.block.1, hp.block.2, hregion (openSession s.cfg kind p) rfl hp.region⟩, hinfl⟩

/-- Bytes that fit what remains are counted without wrapping. -/
theorem written_add_le {q : Session} {n : Nat} (hw : q.written.toNat ≤ q.total.toNat) (hn : n ≤ q.room) :
    (q.written + BitVec.ofNat 32 n).toNat ≤ q.total.toNat := by
  have := q.total.isLt
  unfold Session.room at hn
  rw [BitVec.toNat_add, BitVec.toNat_ofNat]
  omega

theorem accept_sessionOk {s : State} (hs : s.sessionOk = true) {n : Nat} (hn : n ≤ s.sess.room) (d : List Byte) :
    (accept n d s).sessionOk = true := by
  rw [sessionOk_iff] at hs ⊢
  obtain ⟨hopen, hinfl⟩ := hs
  refine ⟨hopen.imp_right ?_, hinfl⟩
  rintro ⟨hw, hb, hmax, hregion⟩
  exact ⟨written_add_le hw hn, hb, hmax, hregion⟩

/-- R31 reads nothing that sets this apart from data accepted. -/
theorem advanceWritten_sessionOk {s : State} (hs : s.sessionOk = true) {n : Nat} (hn : n ≤ s.sess.room) :
    (advanceWritten n s).sessionOk = true := accept_sessionOk hs hn []

/-- What the inflater holds is no matter of R31, only that there is one. -/
theorem sessionOk_set_infl {s : State} (hs : s.sessionOk = true) (hkind : s.sess.kind = .defl) (st : Inflate) :
    ({ s with infl := some st } : State).sessionOk = true := by
  rw [sessionOk_iff] at hs ⊢
  exact ⟨hs.1, by simp [hkind]⟩

/-! ## Requests the spec allows -/

/-- What a session writes lies in its region (R66). -/
theorem covers_writeAddr {q : Session} {n : Nat} (hw : q.written.toNat ≤ q.total.toNat) (hn : n ≤ q.room) :
    q.covers q.writeAddr n := by
  unfold Session.room at hn
  unfold Session.covers Session.writeAddr
  omega

theorem flashWrite_allowed {s : State} (hs : s.sessionOk = true) (hkind : s.sess.kind = .flash ∨ s.sess.kind = .defl)
    {b : List Byte} (hpos : 0 < b.length) (hroom : b.length ≤ s.sess.room) :
    (PortRequest.flashWrite s.sess.writeAddr b).allowed s := by
  obtain ⟨hopen | ⟨hw, -, -, hregion⟩, -⟩ := (sessionOk_iff s).mp hs
  · simp [hopen] at hkind
  · have hcov := covers_writeAddr hw hroom
    refine ⟨hpos, hkind, hcov, le_trans hcov.2 ?_⟩
    rcases hkind with hk | hk <;> simpa [Session.regionOk, hk, inFlash] using hregion

theorem memWrite_allowed {s : State} (hs : s.sessionOk = true) (hkind : s.sess.kind = .mem)
    {b : List Byte} (hpos : 0 < b.length) (hroom : b.length ≤ s.sess.room) :
    (PortRequest.memWrite s.sess.writeAddr b).allowed s := by
  obtain ⟨hopen | ⟨hw, -⟩, -⟩ := (sessionOk_iff s).mp hs
  · simp [hopen] at hkind
  · exact ⟨hpos, hkind, covers_writeAddr hw hroom⟩

theorem sectorSize_pos {c : Config} (h : c.ok = true) : 0 < c.sectorSize := by
  simp only [Config.ok, Bool.and_eq_true, bne_iff_ne, ne_eq] at h
  omega

theorem sectorSize_dvd_flashSize {c : Config} (h : c.ok = true) : c.sectorSize ∣ c.flashSize := by
  simp only [Config.ok, Bool.and_eq_true, beq_iff_eq] at h
  obtain ⟨⟨⟨-, hmod⟩, -⟩, -⟩ := h
  exact Nat.dvd_of_mod_eq_zero hmod

/-- The range a BEGIN erases is made of whole sectors, and ends in the flash if its region does (R203, R261). -/
theorem eraseRange_allowed {s : State} (hok : s.cfg.ok = true) {a n : Nat} (hin : inFlash s.cfg a n = true)
    (hpos : 0 < (eraseRange s.cfg a n).2) :
    (PortRequest.flashErase (eraseRange s.cfg a n).1 (eraseRange s.cfg a n).2).allowed s := by
  have hsec := sectorSize_pos hok
  obtain ⟨sectors, hsize⟩ := sectorSize_dvd_flashSize hok
  have hin : a + n ≤ s.cfg.flashSize := by simpa [inFlash] using hin
  unfold eraseRange at hpos ⊢
  dsimp only at hpos ⊢
  split at hpos
  · cases hpos
  rw [if_neg ‹_›]
  simp only [PortRequest.allowed]
  generalize s.cfg.sectorSize = sec at *
  have hstop : (a + n + (sec - 1)) / sec ≤ sectors := by
    rw [hsize] at hin
    exact Nat.lt_succ_iff.mp ((Nat.div_lt_iff_lt_mul hsec).mpr (by rw [Nat.succ_mul, mul_comm sectors]; omega))
  refine ⟨hpos, Nat.mul_mod_left .., by rw [← Nat.sub_mul]; exact Nat.mul_mod_left .., ?_⟩
  rw [Nat.add_sub_cancel' (by omega), hsize, mul_comm sec]
  exact Nat.mul_le_mul_right sec hstop

/-! ## The digest and the window of a stream -/

theorem md5Compress_nbytes (x : Md5Context) (m : List Byte) : (md5Compress x m).nbytes = x.nbytes := by
  have words (r : Word × Word × Word × Word) :
      (match r with
        | (a, b, c, d) => { x with a := x.a + a, b := x.b + b, c := x.c + c, d := x.d + d } : Md5Context).nbytes
        = x.nbytes := rfl
  exact words ((List.range 64).foldl (md5Step m) (x.a, x.b, x.c, x.d))

/-- `md5Blocks` with the compression as a parameter: what does not depend on it is proved without computing it, which
the kernel would do to unfold `md5Blocks`. -/
def blocksWith (compress : Md5Context → List Byte → Md5Context) : Nat → Md5Context → Md5Context
  | 0, x => x
  | k + 1, x => blocksWith compress k { compress x (x.pend.take 64) with pend := x.pend.drop 64 }

theorem md5Blocks_eq (k : Nat) (x : Md5Context) : md5Blocks k x = blocksWith md5Compress k x := by
  delta md5Blocks blocksWith
  rfl

theorem blocksWith_nbytes {compress : Md5Context → List Byte → Md5Context}
    (h : ∀ x m, (compress x m).nbytes = x.nbytes) (k : Nat) (x : Md5Context) :
    (blocksWith compress k x).nbytes = x.nbytes := by
  induction k generalizing x with
  | zero => rfl
  | succ k ih => exact (ih _).trans (h ..)

theorem blocksWith_pend (compress : Md5Context → List Byte → Md5Context) (k : Nat) (x : Md5Context) :
    (blocksWith compress k x).pend = x.pend.drop (64 * k) := by
  induction k generalizing x with
  | zero => rfl
  | succ k ih => rw [blocksWith, ih, List.drop_drop, Nat.mul_succ, Nat.add_comm]

theorem md5Update_absorbed {x : Md5Context} {n : Nat} (h : x.absorbed n = true) (b : List Byte) :
    (md5Update x b).absorbed (n + b.length) = true := by
  simp only [Md5Context.absorbed, Bool.and_eq_true, beq_iff_eq] at h ⊢
  obtain ⟨hn, hp⟩ := h
  rw [md5Update, md5Blocks_eq, blocksWith_nbytes md5Compress_nbytes, blocksWith_pend, List.length_drop,
    List.length_append]
  dsimp only
  omega

/-- What R250 checked and R252 keeps, clause by clause. -/
theorem ReadStream.ok_iff (cfg : Config) (r : ReadStream) :
    r.ok cfg = true ↔ r.acked.toNat ≤ r.sent.toNat ∧ r.sent.toNat ≤ r.len.toNat
      ∧ r.addr.toNat + r.len.toNat ≤ cfg.flashSize ∧ 1 ≤ r.pkt.toNat ∧ r.pkt.toNat ≤ cfg.readPktMax
      ∧ 1 ≤ r.inflight.toNat ∧ r.md5.absorbed r.sent.toNat = true := by
  simp [ReadStream.ok, inFlash, and_assoc]

/-- A stream while it lasts: R252 and R414. -/
def ReadStream.Sound (cfg : Config) (r : ReadStream) : Prop := r.ok cfg = true ∧ r.windowOk

/-- A stream is open in mode STREAM only, and is sound (R33). -/
theorem State.Inv.sound_of_rs {s : State} {r : ReadStream} (hs : s.Inv) (hr : s.rs = some r) :
    s.mode = .stream ∧ r.Sound s.cfg := by
  have hstream := hs.stream
  rw [State.streamOk, hr] at hstream
  exact hstream

theorem State.Inv.rs_eq_none {s : State} (hs : s.Inv) (hm : s.mode ≠ .stream) : s.rs = none := by
  cases hr : s.rs with
  | none => rfl
  | some r => exact absurd (hs.sound_of_rs hr).1 hm

theorem State.Inv.rs_ne_none {s : State} (hs : s.Inv) (hm : s.mode = .stream) : s.rs ≠ none := fun hr => by
  have hstream := hs.stream
  rw [State.streamOk, hr] at hstream
  exact hstream hm

theorem openStream_sound {cfg : Config} {p : List Byte}
    (hin : inFlash cfg (wordAt p 0).toNat (wordAt p 1).toNat = true)
    (hpkt : ¬((wordAt p 2).toNat = 0 || cfg.readPktMax < (wordAt p 2).toNat) = true)
    (hwin : ¬(wordAt p 3).toNat = 0) : (openStream p).Sound cfg := by
  simp only [inFlash, Bool.or_eq_true, decide_eq_true_eq, not_or] at hin hpkt
  refine ⟨(ReadStream.ok_iff _ _).mpr ⟨le_rfl, Nat.zero_le _, hin, ?_, ?_, ?_, rfl⟩, ?_⟩
  all_goals simp only [openStream, ReadStream.windowOk]; omega

/-- A packet that the window lets out leaves the stream sound: it overshoots by less than itself (R414). -/
theorem ReadStream.Sound.send {cfg : Config} {r : ReadStream} (hr : r.ok cfg = true)
    (hwin : r.sent.toNat - r.acked.toNat < r.inflight.toNat) {b : List Byte}
    (hb : b.length = min r.pkt.toNat (r.len.toNat - r.sent.toNat)) :
    ReadStream.Sound cfg { r with md5 := md5Update r.md5 b, sent := r.sent + BitVec.ofNat 32 b.length } := by
  obtain ⟨hack, hsent, hin, hpos, hmax, hinfl, hmd5⟩ := (ReadStream.ok_iff cfg r).mp hr
  have := r.len.isLt
  have hadd : (r.sent + BitVec.ofNat 32 b.length).toNat = r.sent.toNat + b.length := by
    rw [BitVec.toNat_add, BitVec.toNat_ofNat]; omega
  refine ⟨(ReadStream.ok_iff _ _).mpr ⟨?_, ?_, hin, hpos, hmax, hinfl, ?_⟩, ?_⟩
  · dsimp only; omega
  · dsimp only; omega
  · dsimp only; rw [hadd]; exact md5Update_absorbed hmd5 b
  · simp only [ReadStream.windowOk, hadd]; omega

/-- An acknowledgement of something sent and not yet acknowledged keeps the stream sound (R254). -/
theorem ReadStream.Sound.ack {cfg : Config} {r : ReadStream} (hr : r.Sound cfg) {v : Word}
    (hlow : r.acked.toNat ≤ v.toNat) (hhigh : v.toNat ≤ r.sent.toNat) :
    ReadStream.Sound cfg { r with acked := v } := by
  obtain ⟨hok, hwin⟩ := hr
  obtain ⟨-, hrest⟩ := (ReadStream.ok_iff cfg r).mp hok
  refine ⟨(ReadStream.ok_iff _ _).mpr ⟨hhigh, hrest⟩, ?_⟩
  unfold ReadStream.windowOk at hwin ⊢
  dsimp only
  omega

/-! ## The decoder's buffer -/

/-- R27 for the decoder's state and buffer: within capacity, and empty in HUNT. -/
def FrameBufferOk (cap : Nat) (d : DecoderState) (fbuf : List Byte) : Prop :=
  fbuf.length ≤ cap ∧ (d = .hunt → fbuf = [])

theorem slipAppend_frameBufferOk (cap : Nat) (fbuf : List Byte) (x : Byte) :
    FrameBufferOk cap (slipAppend cap fbuf x).dstate (slipAppend cap fbuf x).fbuf := by
  unfold slipAppend
  split
  · exact ⟨by simpa using ‹_›, nofun⟩
  · exact ⟨Nat.zero_le _, fun _ => rfl⟩

theorem slipByte_frameBufferOk {cap : Nat} {d : DecoderState} {fbuf : List Byte} (h : FrameBufferOk cap d fbuf)
    (x : Byte) : FrameBufferOk cap (slipByte cap d fbuf x).dstate (slipByte cap d fbuf x).fbuf := by
  have hempty (d') : FrameBufferOk cap d' [] := ⟨Nat.zero_le _, fun _ => rfl⟩
  unfold slipByte
  cases d with
  | hunt =>
    dsimp only
    split
    · exact ⟨h.1, nofun⟩
    · exact h
  | inFrame =>
    dsimp only
    split
    · exact hempty _
    split
    · exact ⟨h.1, nofun⟩
    · exact slipAppend_frameBufferOk ..
  | escape =>
    dsimp only
    split
    · exact slipAppend_frameBufferOk ..
    split
    · exact slipAppend_frameBufferOk ..
    split
    · exact hempty _
    · exact hempty _

end Sys2Proof.Machine
end

section
/-! How a rule runs, said once for the commands, the greeting and the stream. From the state it begins in a rule has its
transactions answered one after another and changes the session between them (`Course`); it ends held at a transaction,
halted, or with one frame sent and what follows the frame (`Ends`). The safety statements are inductions over these.

What a rule may rely on is the proposition `G`, for a command that it begins in an invariant state of mode CMD. A rule
run where `G` fails takes the same course; only what it asks for and leaves behind is then unknown. -/

namespace Sys2Proof.Machine

/-! ## One transaction -/

/-- Request `q` was answered in state `u`, and `v` is the state then: the event recorded and the port's storage changed
(R64). -/
inductive Answered : PortRequest → State → State → Prop
  | flashErase (a n : Nat) (u : State) :
    Answered (.flashErase a n) u (record (.flashErase a n true) { drawn u with flash := u.flash.clear a n })
  | flashEraseChip (u : State) :
    Answered .flashEraseChip u (record (.flashEraseChip true) { drawn u with flash := u.flash.clearAll })
  | flashWrite (a : Nat) (b : List Byte) (u : State) :
    Answered (.flashWrite a b) u (record (.flashWrite a b true) { drawn u with flash := u.flash.program a b })
  | flashRead (a : Nat) {n : Nat} {b : List Byte} (hb : b.length = n) (u : State) :
    Answered (.flashRead a n) u (record (.flashRead a n (some b)) (drawn u))
  | memWrite (a : Nat) (b : List Byte) (u : State) :
    Answered (.memWrite a b) u
      (record (.memWrite a b) { u with ram := u.ram.writeBytes a (b.take (2 ^ 32 - a)) })
  | regRead (a : Nat) (v : Word) (u : State) : Answered (.regRead a) u (record (.regRead a v) (drawn u))
  | regWrite (a v : Word) (u : State) :
    Answered (.regWrite a.toNat v) u (record (.regWrite a.toNat v) { u with regs := u.regs.write a.toNat v })
  | delay (us : Word) (u : State) : Answered (.delay us) u (record (.delay us) u)

/-- What asking a port for `q` in state `u` comes to. -/
inductive Asks {α : Type} (q : PortRequest) (u : State) : PortResult α → Prop
  | silent : Asks q u (.silent (unanswered q u))
  | fault {e : PortEvent} (he : e.isTransaction = true) (ha : ∀ s, q.allowed s → e.allowed s) :
    Asks q u (.fault (record e (drawn u)))
  | ok (a : α) {v : State} (hv : Answered q u v) : Asks q u (.ok a v)

theorem request_asks {α : Type} {q : PortRequest} {u : State} {r : PortResult α} (h : Asks q u r) :
    Asks q u (request q u r) := by
  unfold request
  split
  · exact .silent
  · exact h

theorem flashErase_asks (a n : Nat) (u : State) : Asks (.flashErase a n) u (flashErase a n u) := by
  refine request_asks ?_
  split
  · exact .fault rfl fun _ h => h
  · exact .ok () (.flashErase a n u)

theorem flashEraseChip_asks (u : State) : Asks .flashEraseChip u (flashEraseChip u) := by
  refine request_asks ?_
  split
  · exact .fault rfl fun _ h => h
  · exact .ok () (.flashEraseChip u)

theorem flashWrite_asks (a : Nat) (b : List Byte) (u : State) : Asks (.flashWrite a b) u (flashWrite a b u) := by
  refine request_asks ?_
  split
  · exact .fault rfl fun _ h => h
  · exact .ok () (.flashWrite a b u)

theorem flashRead_asks (a n : Nat) (u : State) : Asks (.flashRead a n) u (flashRead a n u) := by
  refine request_asks ?_
  split
  · exact .fault rfl fun _ h => ⟨h, nofun⟩
  · exact .ok _ (.flashRead a (answerBytes_length ..) u)

theorem memWrite_asks (a : Nat) (b : List Byte) (u : State) : Asks (.memWrite a b) u (memWrite a b u) :=
  request_asks (.ok () (.memWrite a b u))

theorem regRead_asks (a : Nat) (u : State) : Asks (.regRead a) u (regRead a u) :=
  request_asks (.ok _ (.regRead a _ u))

theorem regWrite_asks (a v : Word) (u : State) : Asks (.regWrite a.toNat v) u (regWrite a.toNat v u) :=
  request_asks (.ok () (.regWrite a v u))

theorem delay_asks (us : Word) (u : State) : Asks (.delay us) u (delay us u) :=
  request_asks (.ok () (.delay us u))

/-- A read that is answered gives as many bytes as were asked for. -/
theorem flashRead_ok_length {a n : Nat} {u v : State} {b : List Byte} (h : flashRead a n u = .ok b v) :
    b.length = n := by
  unfold flashRead request at h
  split at h
  · cases h
  · split at h
    · cases h
    · cases h; exact answerBytes_length ..

/-- Only what stands behind the ports has moved. -/
def SameButPorts (u v : State) : Prop :=
  v = { u with flash := v.flash, ram := v.ram, regs := v.regs, answers := v.answers, draws := v.draws,
               trace := v.trace }

theorem Answered.sameButPorts {q : PortRequest} {u v : State} (h : Answered q u v) : SameButPorts u v := by
  cases h <;> rfl

section
variable {u v : State} (h : SameButPorts u v)
include h

theorem SameButPorts.cfg : v.cfg = u.cfg := (congrArg State.cfg h :)
theorem SameButPorts.mode : v.mode = u.mode := (congrArg State.mode h :)
theorem SameButPorts.sess : v.sess = u.sess := (congrArg State.sess h :)
theorem SameButPorts.sessionOk : v.sessionOk = u.sessionOk := (congrArg State.sessionOk h :)

end

/-- An answer has the shape R64 gives. -/
theorem Answered.event {q : PortRequest} {u v : State} (h : Answered q u v) :
    ∃ e, v.trace = u.trace ++ [e] ∧ e.isTransaction = true ∧ ∀ s, q.allowed s → e.allowed s := by
  cases h with
  | flashRead a hb u => exact ⟨_, rfl, rfl, fun _ hq => ⟨hq, fun _ hb' => by cases hb'; exact hb⟩⟩
  | _ => exact ⟨_, rfl, rfl, fun _ hq => hq⟩

/-! ## The course of a rule -/

/-- The rule begun in `s` has come to `u`: every transaction so far was answered, and no frame is sent. -/
inductive Course (G : Prop) (s : State) : State → Prop
  | start : Course G s s
  | session {u : State} (q : Session) (infl : Option Inflate) (h : Course G s u)
    (hs : G → ({ u with sess := q, infl := infl } : State).SessionInv) :
    Course G s { u with sess := q, infl := infl }
  | clearFrame {u : State} (h : Course G s u) : Course G s { u with fbuf := [] }
  | transaction {q : PortRequest} {u v : State} (h : Course G s u) (hq : G → q.allowed s) (hv : Answered q u v) :
    Course G s v

/-- What follows the frame a rule sends, from the state `w` the frame left: nothing, a signal (R221, R212, R276), or
another mode with its stream. -/
inductive After (G : Prop) (w : State) : State → Prop
  | nothing : After G w w
  | reboot (hrs : G → w.rs = none) : After G w (reboot w)
  | finish (entry : Word) (hrs : G → w.rs = none) : After G w (finish entry w)
  | baud (rate : Word) (hrate : G → rate ≠ 0 ∧ w.transport = .uart) : After G w (record (.baud rate) w)
  | enter (m : Mode) (rs : Option ReadStream) (hm : m = .cmd ∨ m = .stream)
    (hrs : G → ({ w with mode := m, rs := rs } : State).streamOk) : After G w { w with mode := m, rs := rs }

/-- How the rule begun in `s` can end; `F` says which packets it sends. -/
inductive Ends (G : Prop) (F : List Byte → Prop) (s : State) : State → Prop
  | held {u : State} (q : PortRequest) (h : Course G s u) (hq : G → q.allowed s) : Ends G F s (unanswered q u)
  | faulted {u : State} (e : PortEvent) (h : Course G s u) (he : e.isTransaction = true) (ha : G → e.allowed s) :
    Ends G F s (raiseFatal .flashFault (record e (drawn u)))
  | broken (h : ¬G) : Ends G F s (raiseFatal .invariant s)
  | sends {u t : State} (p : List Byte) (h : Course G s u) (hp : F p) (ht : After G (u.sending p) t) : Ends G F s t

variable {G : Prop} {F : List Byte → Prop} {s u : State}

/-- On its course a rule keeps the queue, the overflow, the decoder's state, the mode, the stream and the cause. -/
theorem Course.frame (h : Course G s u) :
    u = { s with fbuf := u.fbuf, sess := u.sess, infl := u.infl, flash := u.flash, ram := u.ram, regs := u.regs,
                 answers := u.answers, draws := u.draws, trace := u.trace } := by
  induction h with
  | start => rfl
  | session q infl _ _ ih => rw [ih]
  | clearFrame _ ih => rw [ih]
  | transaction _ _ hv ih =>
    have hv := hv.sameButPorts
    unfold SameButPorts at hv
    rw [hv, ih]

section
variable (h : Course G s u)
include h

theorem Course.cfg : u.cfg = s.cfg := (congrArg State.cfg h.frame :)
theorem Course.transport : u.transport = s.transport := (congrArg State.transport h.frame :)
theorem Course.ovf : u.ovf = s.ovf := (congrArg State.ovf h.frame :)
theorem Course.ovfCnt : u.ovfCnt = s.ovfCnt := (congrArg State.ovfCnt h.frame :)
theorem Course.mode : u.mode = s.mode := (congrArg State.mode h.frame :)
theorem Course.rs : u.rs = s.rs := (congrArg State.rs h.frame :)
theorem Course.waiting : u.waiting = s.waiting := (congrArg State.waiting h.frame :)

end

/-! ## Running a rule -/

/-- A transaction and the rest of the rule, which may rely on the transaction having been answered. -/
theorem Asks.ends {α : Type} {q : PortRequest} {r : PortResult α} {k : α → State → State} (hr : Asks q u r)
    (h : Course G s u) (hq : G → q.allowed s)
    (hk : ∀ a v, r = .ok a v → SameButPorts u v → Course G s v → Ends G F s (k a v)) : Ends G F s (r.andThen k) := by
  cases hr with
  | silent => exact .held q h hq
  | fault he ha => exact .faulted _ h he fun hG => ha s (hq hG)
  | ok a hv => exact hk a _ rfl hv.sameButPorts (h.transaction hq hv)

/-- A transaction that a rule leaves out when there is nothing to ask for. -/
theorem Asks.ends_if {P : Prop} [Decidable P] {q : PortRequest} {r : PortResult Unit} {k : Unit → State → State}
    (hr : Asks q u r) (h : Course G s u) (hq : P → G → q.allowed s)
    (hk : ∀ v, SameButPorts u v → Course G s v → Ends G F s (k () v)) :
    Ends G F s ((if P then r else .ok () u).andThen k) := by
  split
  · exact hr.ends h (hq ‹P›) fun _ v _ => hk v
  · exact hk u rfl h

theorem emit_ends {p : List Byte} {k : Unit → State → State} (h : Course G s u) (hp : F p)
    (hk : After G (u.sending p) (k () (u.sending p))) : Ends G F s ((emit p u).andThen k) := by
  rw [emit_andThen]
  split
  · exact .held _ h fun _ => trivial
  · exact .sends p h hp hk

theorem Course.discard (h : Course G s u) : Course G s (discardSession u) :=
  .session _ _ h fun _ => discardSession_sessionInv u

end Sys2Proof.Machine
end

section
/-! Every command takes such a course. One lemma per rule, in the order of Machine/SessionCommands.lean and
Machine/SingleCommands.lean. -/

namespace Sys2Proof.Machine

/-- What a command may rely on. -/
def State.Ready (s : State) : Prop := s.Inv ∧ s.mode = .cmd

/-- A way the command with opcode `c`, begun in `s`, can end: its frame is a response to `c`. -/
abbrev CommandEnds (c : Opcode) (s t : State) : Prop := Ends s.Ready (IsResponse (s.cfg.opcodes.code c)) s t

variable {s u : State}

/-- MAIN runs commands in mode CMD, where no stream is open. -/
theorem State.Ready.rs (h : s.Ready) : s.rs = none := h.1.rs_eq_none (by simp [h.2])

/-! ## Responses -/

theorem respond_ends {c : Opcode} {v : Word} {b : List Byte} {k : Unit → State → State} (h : Course s.Ready s u)
    (hk : After s.Ready (u.sending (successPacket (u.cfg.opcodes.code c) v b))
      (k () (u.sending (successPacket (u.cfg.opcodes.code c) v b)))) :
    CommandEnds c s ((respond c v b u).andThen k) :=
  emit_ends h (by rw [h.cfg]; exact successPacket_isResponse ..) hk

theorem ack_ends (c : Opcode) (h : Course s.Ready s u) : CommandEnds c s (ack c u) := respond_ends h .nothing

theorem fail_ends (c : Opcode) (f : Failure) (h : Course s.Ready s u) : CommandEnds c s (fail c f u) :=
  emit_ends h (by rw [h.cfg]; exact failurePacket_isResponse ..) .nothing

/-! ## The session commands -/

/-- A command changes the session to one that R31 allows. -/
theorem Course.setSession {q : Session} {infl : Option Inflate} (h : Course s.Ready s u)
    (hs : s.Ready → ({ u with sess := q, infl := infl } : State).sessionOk = true) :
    Course s.Ready s { u with sess := q, infl := infl } :=
  .session q infl h fun hG => ⟨hs hG, fun hm => by
    have hm : s.mode = .boot := h.mode.symm.trans hm
    rw [hG.2] at hm; cases hm⟩

theorem Course.accept (h : Course s.Ready s u) (n : Nat) (d : List Byte)
    (hs : s.Ready → u.sessionOk = true ∧ n ≤ u.sess.room) : Course s.Ready s (accept n d u) :=
  h.setSession fun hG => accept_sessionOk (hs hG).1 (hs hG).2 d

theorem execSync_ends (s : State) : CommandEnds .sync s (ack .sync { discardSession s with fbuf := [] }) :=
  ack_ends .sync (.clearFrame (.discard .start))

theorem beginFlash_ends (c : Opcode) {kind : SessionKind} (hkind : kind = .flash ∨ kind = .defl)
    {infl : Option Inflate} (hinfl : infl.isSome = true ↔ kind = .defl) (p : List Byte) (s : State) :
    CommandEnds c s (beginFlash c kind infl p s) := by
  have hstart : Course s.Ready s (discardSession s) := .discard .start
  unfold beginFlash
  dsimp only
  split
  · exact fail_ends c _ hstart
  · have hp := (beginChecks_eq_none _ _ _).mp ‹_›
    refine (flashErase_asks ..).ends_if hstart (fun hpos hG => eraseRange_allowed hG.1.params hp.region hpos)
      fun v hv h => ack_ends c (h.setSession fun _ => ?_)
    have hcfg : v.cfg = s.cfg := hv.cfg
    refine openSession_sessionOk (region := inFlash s.cfg) ⟨hp.shape, hcfg ▸ hp.block, hp.region⟩
      (fun q hq hr => ?_) hinfl
    rcases hkind with rfl | rfl <;> simpa [Session.regionOk, hq, hcfg] using hr

theorem execMemBegin_ends (v : Word) (p : List Byte) (s : State) :
    ∃ t, execMemBegin v p s = .next t ∧ CommandEnds .memBegin s t := by
  have hstart : Course s.Ready s (discardSession s) := .discard .start
  refine ⟨_, rfl, ?_⟩
  dsimp only
  split
  · exact fail_ends _ _ hstart
  · have hp := (beginChecks_eq_none _ _ _).mp ‹_›
    exact ack_ends _ (hstart.setSession fun _ => openSession_sessionOk (s := discardSession s) hp
      (fun q hq hr => by simpa [Session.regionOk, hq] using hr) (by simp))

theorem trimmed_le_room (p : List Byte) (s : State) : trimmed p s ≤ s.sess.room := Nat.min_le_right ..

/-- The bytes a data command writes are there to be written. -/
theorem length_take_trimmed {p : List Byte} (hp : DataShape p) (s : State) :
    ((dataBytes p).take (trimmed p s)).length = trimmed p s := by
  rw [List.length_take, dataBytes_length hp]
  exact Nat.min_eq_left (Nat.min_le_left ..)

/-- A session that breaks R31 is one of no ready state (R381, log 11). -/
theorem invariant_ends {c : Opcode} (h : s.Ready → s.sessionOk = true) (hs : (!s.sessionOk) = true) :
    CommandEnds c s (raiseFatal .invariant s) :=
  .broken fun hG => by simp [h hG] at hs

/-- The write of FLASH_DATA and MEM_DATA, and what follows it. -/
theorem dataWrite_ends {c : Opcode} {q : PortRequest} {r : PortResult Unit} {p : List Byte} (hr : Asks q s r)
    (hs : s.sessionOk = true) (hq : 0 < trimmed p s → q.allowed s) :
    CommandEnds c s ((if 0 < trimmed p s then r else .ok () s).andThen fun _ w =>
      ack c (accept (trimmed p s) (dataBytes p) w)) :=
  hr.ends_if .start (fun hpos _ => hq hpos) fun _ hw h =>
    ack_ends c (h.accept _ _ fun _ => ⟨hw.sessionOk ▸ hs, hw.sess ▸ trimmed_le_room p s⟩)

theorem execFlashData_ends (v : Word) (p : List Byte) (s : State) :
    ∃ t, execFlashData v p s = .next t ∧ CommandEnds .flashData s t := by
  refine ⟨_, rfl, ?_⟩
  split
  · exact fail_ends _ _ .start
  · have hp := (dataChecks_eq_none _ _ _ _).mp ‹_›
    have hlen := length_take_trimmed hp.shape s
    split
    · exact invariant_ends (fun hG => hG.1.session) ‹_›
    · have hs : s.sessionOk = true := by simpa using ‹¬(!s.sessionOk) = true›
      exact dataWrite_ends (flashWrite_asks ..) hs fun hpos =>
        flashWrite_allowed hs (.inl hp.session) (by omega) (hlen.le.trans (trimmed_le_room p s))

theorem execMemData_ends (v : Word) (p : List Byte) (s : State) :
    ∃ t, execMemData v p s = .next t ∧ CommandEnds .memData s t := by
  refine ⟨_, rfl, ?_⟩
  split
  · exact fail_ends _ _ .start
  · have hp := (dataChecks_eq_none _ _ _ _).mp ‹_›
    have hlen := length_take_trimmed hp.shape s
    split
    · exact invariant_ends (fun hG => hG.1.session) ‹_›
    · have hs : s.sessionOk = true := by simpa using ‹¬(!s.sessionOk) = true›
      exact dataWrite_ends (memWrite_asks ..) hs fun hpos =>
        memWrite_allowed hs hp.session (by omega) (hlen.le.trans (trimmed_le_room p s))

/-- The inflater's output goes to the flash as far as there is room, and the session ends with an error or counts it. -/
theorem writeInflated_ends {d out : List Byte} {st : Inflate} (h : Course s.Ready s u) (hs : u.sessionOk = true)
    (hkind : u.sess.kind = .defl) (hsess : u.sess = s.sess) :
    CommandEnds .flashDeflData s (writeInflated d out st u) := by
  have hallowed {b : List Byte} (hpos : 0 < b.length) (hroom : b.length ≤ u.sess.room) (hG : s.Ready) :
      (PortRequest.flashWrite u.sess.writeAddr b).allowed s := by
    rw [hsess] at hkind hroom ⊢
    exact flashWrite_allowed hG.1.session (.inr hkind) hpos hroom
  unfold writeInflated
  split
  · have hlen : (out.take u.sess.room).length = u.sess.room := List.length_take_of_le (by omega)
    exact (flashWrite_asks ..).ends_if h (fun hpos => hallowed (by omega) hlen.le)
      fun w _ h => fail_ends _ _ h.discard
  · refine (flashWrite_asks ..).ends_if h (fun hpos => hallowed hpos (by omega)) fun w hw h => ?_
    have hfits : out.length ≤ w.sess.room := by rw [hw.sess]; omega
    split
    · have hadvanced : Course s.Ready s (advanceWritten out.length w) :=
        h.setSession fun _ => advanceWritten_sessionOk (hw.sessionOk ▸ hs) hfits
      exact fail_ends _ _ hadvanced.discard
    · exact ack_ends _ (h.accept _ _ fun _ => ⟨hw.sessionOk ▸ hs, hfits⟩)

theorem execFlashDeflData_ends (v : Word) (p : List Byte) (s : State) :
    ∃ t, execFlashDeflData v p s = .next t ∧ CommandEnds .flashDeflData s t := by
  refine ⟨_, rfl, ?_⟩
  split
  · exact fail_ends _ _ .start
  · have hp := (dataChecks_eq_none _ _ _ _).mp ‹_›
    split
    · exact invariant_ends (fun hG => hG.1.session) ‹_›
    · have hs : s.sessionOk = true := by simpa using ‹¬(!s.sessionOk) = true›
      split
      · rename_i hnone
        have hinfl := ((sessionOk_iff s).mp hs).2.mpr hp.session
        rw [hnone] at hinfl
        cases hinfl
      · have hfed := sessionOk_set_infl hs hp.session
        exact writeInflated_ends (.setSession .start fun _ => hfed _) (hfed _) hp.session rfl

theorem endFlash_ends (c : Opcode) (kind : SessionKind) (p : List Byte) (s : State) :
    CommandEnds c s (endFlash c kind p s) := by
  unfold endFlash
  split
  · exact fail_ends c _ .start
  split
  · exact fail_ends c _ .start
  · refine respond_ends (.discard .start) ?_
    split
    · exact .reboot State.Ready.rs
    · exact .nothing

theorem endMem_ends (p : List Byte) (s : State) : CommandEnds .memEnd s (endMem p s) := by
  unfold endMem
  split
  · exact fail_ends _ _ .start
  split
  · exact fail_ends _ _ .start
  · refine respond_ends (.discard .start) ?_
    split
    · exact .finish _ State.Ready.rs
    · exact .nothing

/-! ## The single-shot commands -/

theorem execReadFlash_ends (v : Word) (p : List Byte) (s : State) :
    ∃ t, execReadFlash v p s = .next t ∧ CommandEnds .readFlash s t := by
  refine ⟨_, rfl, ?_⟩
  split
  · exact fail_ends _ _ .start
  split
  · exact fail_ends _ _ .start
  split
  · exact fail_ends _ _ .start
  split
  · exact fail_ends _ _ .start
  · rename_i hin hpkt hwin
    have hsound : (openStream p).Sound s.cfg := openStream_sound (by simpa using hin) hpkt hwin
    exact respond_ends .start (.enter .stream _ (.inr rfl) fun _ => ⟨rfl, hsound⟩)

theorem execEraseFlash_ends (v : Word) (p : List Byte) (s : State) :
    ∃ t, execEraseFlash v p s = .next t ∧ CommandEnds .eraseFlash s t := by
  refine ⟨_, rfl, ?_⟩
  split
  · exact fail_ends _ _ .start
  · exact (flashEraseChip_asks s).ends .start (fun _ => trivial) fun _ w _ _ h => ack_ends _ h

theorem execEraseRegion_ends (v : Word) (p : List Byte) (s : State) :
    ∃ t, execEraseRegion v p s = .next t ∧ CommandEnds .eraseRegion s t := by
  refine ⟨_, rfl, ?_⟩
  dsimp only
  split
  · exact fail_ends _ _ .start
  split
  · exact fail_ends _ _ .start
  split
  · exact fail_ends _ _ .start
  · rename_i haligned hin
    simp only [inFlash, Bool.not_eq_true', decide_eq_false_iff_not, Bool.or_eq_true, decide_eq_true_eq, not_or,
      not_not, ne_eq] at haligned hin
    exact (flashErase_asks ..).ends_if .start (fun hpos _ => ⟨hpos, haligned.1, haligned.2, hin⟩)
      fun w _ h => ack_ends _ h

/-- Each read of SPI_FLASH_MD5 is of some bytes that remain of the region, and these lie in the flash (R266). -/
theorem digestFlash_ends {c : Opcode} {k : Md5Context → State → State}
    (hk : ∀ x w, Course s.Ready s w → CommandEnds c s (k x w)) (fuel a left : Nat) (x : Md5Context) {u : State}
    (h : Course s.Ready s u) (hin : a + left ≤ s.cfg.flashSize) :
    CommandEnds c s ((digestFlash fuel a left x u).andThen k) := by
  induction fuel generalizing a left x u with
  | zero => exact hk x u h
  | succ fuel ih =>
    unfold digestFlash
    split
    · exact hk x u h
    · rw [PortResult.bind_andThen]
      refine (flashRead_asks ..).ends h (fun hG => ?_) fun b w _ _ hw => ih _ _ _ hw (by omega)
      have hsec := sectorSize_pos hG.1.params
      rw [← h.cfg] at hsec
      exact ⟨by omega, by omega⟩

theorem execSpiFlashMd5_ends (v : Word) (p : List Byte) (s : State) :
    ∃ t, execSpiFlashMd5 v p s = .next t ∧ CommandEnds .spiFlashMd5 s t := by
  refine ⟨_, rfl, ?_⟩
  dsimp only
  split
  · exact fail_ends _ _ .start
  split
  · exact fail_ends _ _ .start
  · rename_i hin
    exact digestFlash_ends (fun x w h => respond_ends h .nothing) _ _ _ _ .start (by simpa [inFlash] using hin)

theorem execReadReg_ends (v : Word) (p : List Byte) (s : State) :
    ∃ t, execReadReg v p s = .next t ∧ CommandEnds .readReg s t := by
  refine ⟨_, rfl, ?_⟩
  dsimp only
  split
  · exact fail_ends _ _ .start
  split
  · exact fail_ends _ _ .start
  · rename_i hin
    have hin : inRegs s.cfg (wordAt p 0).toNat = true := by simpa using hin
    exact (regRead_asks ..).ends .start (fun _ => hin) fun x w _ _ h => respond_ends h .nothing

theorem writeEntry_ends {c : Opcode} {k : Unit → State → State}
    (hk : ∀ w, Course s.Ready s w → CommandEnds c s (k () w))
    {e : RegEntry} (he : inRegs s.cfg e.addr.toNat = true) (h : Course s.Ready s u) :
    CommandEnds c s ((writeEntry e u).andThen k) := by
  have hdelay {w : State} (hw : Course s.Ready s w) :
      CommandEnds c s ((if e.delay = 0 then .ok () w else delay e.delay w).andThen k) := by
    split
    · exact hk w hw
    · exact (delay_asks ..).ends hw (fun _ => ‹¬e.delay = 0›) fun _ w _ _ => hk w
  unfold writeEntry
  rw [PortResult.bind_andThen]
  split
  · exact (regWrite_asks ..).ends h (fun _ => he) fun _ w _ _ => hdelay
  · rw [PortResult.bind_andThen]
    exact (regRead_asks ..).ends h (fun _ => he) fun _ w _ _ hw =>
      (regWrite_asks ..).ends hw (fun _ => he) fun _ w _ _ => hdelay

theorem writeEntries_ends {c : Opcode} {k : Unit → State → State}
    (hk : ∀ w, Course s.Ready s w → CommandEnds c s (k () w)) {es : List RegEntry}
    (hes : ∀ e ∈ es, inRegs s.cfg e.addr.toNat = true) (h : Course s.Ready s u) :
    CommandEnds c s ((writeEntries es u).andThen k) := by
  induction es generalizing u with
  | nil => exact hk u h
  | cons e es ih =>
    rw [writeEntries, PortResult.bind_andThen]
    exact writeEntry_ends (fun w hw => ih (fun e he => hes e (.tail _ he)) hw) (hes e (.head _)) h

theorem execWriteReg_ends (v : Word) (p : List Byte) (s : State) :
    ∃ t, execWriteReg v p s = .next t ∧ CommandEnds .writeReg s t := by
  refine ⟨_, rfl, ?_⟩
  split
  · exact fail_ends _ _ .start
  split
  · exact fail_ends _ _ .start
  · rename_i hes
    exact writeEntries_ends (fun w h => ack_ends _ h) (by simpa using hes) .start

theorem execChangeBaudrate_ends (v : Word) (p : List Byte) (s : State) :
    ∃ t, execChangeBaudrate v p s = .next t ∧ CommandEnds .changeBaudrate s t := by
  refine ⟨_, rfl, ?_⟩
  split
  · exact fail_ends _ _ .start
  split
  · exact fail_ends _ _ .start
  split
  · exact fail_ends _ _ .start
  · exact respond_ends .start (.baud _ fun _ => ⟨‹_›, not_not.mp ‹_›⟩)

/-! ## Every command -/

theorem exec_ends (i : Instr) (s : State) : ∃ t, exec i s = .next t ∧ CommandEnds i.opcode s t := by
  cases i with
  | sync v p => exact ⟨_, rfl, execSync_ends s⟩
  | flashBegin v p => exact ⟨_, rfl, beginFlash_ends _ (.inl rfl) (by simp) p s⟩
  | flashData v p => exact execFlashData_ends v p s
  | flashEnd v p => exact ⟨_, rfl, endFlash_ends _ _ p s⟩
  | memBegin v p => exact execMemBegin_ends v p s
  | memData v p => exact execMemData_ends v p s
  | memEnd v p => exact ⟨_, rfl, endMem_ends p s⟩
  | memFinish v p => exact ⟨_, rfl, endMem_ends p s⟩
  | flashDeflBegin v p => exact ⟨_, rfl, beginFlash_ends _ (.inr rfl) (by simp) p s⟩
  | flashDeflData v p => exact execFlashDeflData_ends v p s
  | flashDeflEnd v p => exact ⟨_, rfl, endFlash_ends _ _ p s⟩
  | readFlash v p => exact execReadFlash_ends v p s
  | eraseFlash v p => exact execEraseFlash_ends v p s
  | eraseRegion v p => exact execEraseRegion_ends v p s
  | spiFlashMd5 v p => exact execSpiFlashMd5_ends v p s
  | readReg v p => exact execReadReg_ends v p s
  | writeReg v p => exact execWriteReg_ends v p s
  | changeBaudrate v p => exact execChangeBaudrate_ends v p s

end Sys2Proof.Machine
end

section
/-! What every rule keeps, by induction over its course and by cases on its end: the invariant, the requests the spec
allows, the storage that is not its own, and the one frame it sends. -/

namespace Sys2Proof.Machine

variable {G : Prop} {F : List Byte → Prop} {s t u v w : State} {q : PortRequest}

/-- MAIN is at work: it waits for no answer, and its mode is one with a step (R28). -/
def State.Live (s : State) : Prop := s.waiting = none ∧ (s.mode = .boot ∨ s.mode = .cmd ∨ s.mode = .stream)

theorem State.Live.not_halted (h : s.Live) : s.mode ≠ .halted := by
  rcases h.2 with h | h | h <;> simp [h]

theorem State.Live.fatal (hs : s.Inv) (h : s.Live) : s.fatal = .none :=
  not_not.mp fun hf => h.not_halted (hs.fatal.mp hf)

/-! ## The invariant -/

theorem State.Inv.record (hu : u.Inv) (hw : u.waiting = none) (e : PortEvent) : (record e u).Inv :=
  { hu with waiting := fun q (hq : u.waiting = some q) => by rw [hw] at hq; cases hq }

theorem State.Inv.unanswered (hu : u.Inv) (hl : u.Live) (q : PortRequest) : (unanswered q u).Inv :=
  { hu with waiting := fun q' hq => ⟨by rw [unanswered_waiting] at hq; cases hq; simp, hl.2⟩ }

/-- A fatal event ends the stream with the run (R33, R252; log 12). -/
theorem State.Inv.raiseFatal {c : FatalCause} (hu : u.Inv) (hw : u.waiting = none) (hnone : c ≠ .none)
    (hinv : c ≠ .invariant) : (raiseFatal c u).Inv :=
  { hu with
    boot := nofun
    stream := nofun
    fatal := ⟨fun _ => rfl, fun _ => hnone⟩
    reached := hinv
    waiting := fun q (hq : u.waiting = some q) => by rw [hw] at hq; cases hq }

theorem State.Inv.setMode {m : Mode} {rs : Option ReadStream} (hu : u.Inv) (hl : u.Live) (hboot : m ≠ .boot)
    (hhalted : m ≠ .halted) (hrs : ({ u with mode := m, rs := rs } : State).streamOk) :
    ({ u with mode := m, rs := rs } : State).Inv :=
  { hu with
    boot := fun hm => absurd hm hboot
    stream := hrs
    fatal := ⟨fun hf => absurd (hl.fatal hu) hf, fun hm => absurd hm hhalted⟩
    waiting := fun q (hq : u.waiting = some q) => by rw [hl.1] at hq; cases hq }

/-- An answered request that the spec allows in a state with these parameters leaves the storage in its bounds. -/
theorem Answered.inv (h : Answered q u v) (hu : u.Inv) (hw : u.waiting = none) (hq : q.allowed s)
    (hcfg : u.cfg = s.cfg) : v.Inv := by
  obtain ⟨hfwf, hfin⟩ := hu.flash
  obtain ⟨hmwf, hmin⟩ := hu.ram
  obtain ⟨hrwf, hrin⟩ := hu.regs
  have hdrawn : (drawn u).Inv := { hu with }
  cases h with
  | flashErase a n =>
    have h : ({ drawn u with flash := u.flash.clear a n } : State).Inv :=
      { hdrawn with flash := ⟨Store.wf_clear hfwf a n, Store.within_clear hfin a n⟩ }
    exact h.record hw _
  | flashEraseChip =>
    have h : ({ drawn u with flash := u.flash.clearAll } : State).Inv :=
      { hdrawn with flash := ⟨u.flash.wf_clearAll, u.flash.within_clearAll _⟩ }
    exact h.record hw _
  | flashWrite a b =>
    obtain ⟨-, -, -, hend⟩ := hq
    rw [← hcfg] at hend
    have h : ({ drawn u with flash := u.flash.program a b } : State).Inv :=
      { hdrawn with flash := ⟨Store.wf_program hfwf a b, Store.within_program hfin hend⟩ }
    exact h.record hw _
  | flashRead a hb => exact hdrawn.record hw _
  | memWrite a b =>
    have h : ({ u with ram := u.ram.writeBytes a (b.take (2 ^ 32 - a)) } : State).Inv :=
      { hu with ram := ⟨Store.wf_writeBytes hmwf a _, Store.within_writeBytes_take hmin a b⟩ }
    exact h.record hw _
  | regRead a x => exact hdrawn.record hw _
  | regWrite a x =>
    have h : ({ u with regs := u.regs.write a.toNat x } : State).Inv :=
      { hu with regs := ⟨Store.wf_write hrwf a.toNat x, Store.within_write hrin a.isLt x⟩ }
    exact h.record hw _
  | delay us => exact hu.record hw _

theorem Course.inv (hG : G) (hs : s.Inv) (hw : s.waiting = none) (h : Course G s u) : u.Inv := by
  induction h with
  | start => exact hs
  | session q infl _ hsess ih =>
    obtain ⟨hok, hboot⟩ := hsess hG
    exact { ih with boot := fun hm => ⟨(ih.boot hm).1, hboot hm⟩, session := hok }
  | clearFrame _ ih => exact { ih with frame := Nat.zero_le _, hunt := fun _ => rfl }
  | transaction h hq hv ih => exact hv.inv ih (h.waiting.trans hw) (hq hG) h.cfg

theorem Course.live (hl : s.Live) (h : Course G s u) : u.Live := by
  unfold State.Live
  rw [h.waiting, h.mode]
  exact hl

theorem After.inv (hG : G) (hw : w.Inv) (hl : w.Live) (h : After G w t) : t.Inv := by
  have hrecord (e) : (record e w).Inv := hw.record hl.1 e
  cases h with
  | nothing => exact hw
  | reboot hrs => exact (hrecord .resetReq).setMode hl nofun nofun (by simp [State.streamOk, hrs hG])
  | finish entry hrs => exact (hrecord (.execSignal entry)).setMode hl nofun nofun (by simp [State.streamOk, hrs hG])
  | baud rate => exact hrecord _
  | enter m rs hm hrs =>
    obtain ⟨hboot, hhalted⟩ : m ≠ .boot ∧ m ≠ .halted := by rcases hm with rfl | rfl <;> exact ⟨nofun, nofun⟩
    exact hw.setMode hl hboot hhalted (hrs hG)

theorem Ends.inv (hG : G) (hs : s.Inv) (hl : s.Live) (h : Ends G F s t) : t.Inv := by
  cases h with
  | held q h => exact (h.inv hG hs hl.1).unanswered (h.live hl) q
  | @faulted u e h =>
    have hdrawn : (drawn u).Inv := { h.inv hG hs hl.1 with }
    exact (hdrawn.record (h.live hl).1 e).raiseFatal (h.live hl).1 nofun nofun
  | broken h => exact absurd hG h
  | @sends u t p h hp ht =>
    have hlive : u.Live := h.live hl
    exact ht.inv hG ((h.inv hG hs hl.1).record hlive.1 (sent p)) hlive

/-! ## The requests -/

/-- From `s` to `t` the trace grew, by events with property `P`. -/
def Emits (P : PortEvent → Prop) (s t : State) : Prop := ∃ es, t.trace = s.trace ++ es ∧ ∀ e ∈ es, P e

section
variable {P : PortEvent → Prop}

theorem Emits.of_eq (h : t.trace = s.trace) : Emits P s t := ⟨[], by simp [h], nofun⟩

theorem Emits.snoc {e : PortEvent} (h : Emits P s u) (ht : t.trace = u.trace ++ [e]) (he : P e) : Emits P s t := by
  obtain ⟨es, hes, hP⟩ := h
  exact ⟨es ++ [e], by rw [ht, hes, List.append_assoc], by simpa [or_imp, forall_and] using ⟨hP, he⟩⟩

theorem Emits.mono {Q : PortEvent → Prop} (h : Emits P s t) (hPQ : ∀ e, P e → Q e) : Emits Q s t :=
  h.imp fun _ hes => ⟨hes.1, fun e he => hPQ e (hes.2 e he)⟩

end

theorem Course.emits (h : Course G s u) : Emits (fun e => e.isTransaction = true ∧ (G → e.allowed s)) s u := by
  induction h with
  | start => exact .of_eq rfl
  | session q infl _ _ ih => exact ih
  | clearFrame _ ih => exact ih
  | transaction _ hq hv ih =>
    obtain ⟨e, htrace, htrans, hallowed⟩ := hv.event
    exact ih.snoc htrace ⟨htrans, fun hG => hallowed _ (hq hG)⟩

theorem Ends.emits (hG : G) (h : Ends G F s t) : Emits (fun e => e.allowed s) s t := by
  have hcourse {u} (h : Course G s u) : Emits (fun e => e.allowed s) s u := h.emits.mono fun e he => he.2 hG
  cases h with
  | held q h hq => exact (hcourse h).snoc rfl (hq hG)
  | @faulted u e h he ha => exact ((hcourse h).snoc (t := record e u) rfl (ha hG)).snoc rfl (.inr rfl)
  | broken h => exact absurd hG h
  | @sends u t p h hp ht =>
    have hsent : Emits (fun e => e.allowed s) s (u.sending p) := (hcourse h).snoc rfl trivial
    cases ht with
    | nothing => exact hsent
    | reboot => exact hsent.snoc rfl trivial
    | finish => exact hsent.snoc rfl trivial
    | baud rate hrate => exact hsent.snoc rfl ⟨(hrate hG).1, h.transport ▸ (hrate hG).2⟩
    | enter => exact hsent

/-! ## The storage -/

/-- From `s` to `t` nothing moved that a rule begun in `s` may not write (R31, R35, R60, R63, R66, R271). -/
structure KeepsForeign (s t : State) : Prop where
  cfg : t.cfg = s.cfg
  transport : t.transport = s.transport
  regs : ∀ a, inRegs s.cfg a = false → t.regs.read a = s.regs.read a
  ram : ∀ a, ¬(s.sess.kind = .mem ∧ s.sess.covers a 1) → t.ram.read a = s.ram.read a
  flash : ∀ a, s.cfg.flashSize ≤ a → t.flash.read a = s.flash.read a

theorem KeepsForeign.refl (s : State) : KeepsForeign s s := ⟨rfl, rfl, fun _ _ => rfl, fun _ _ => rfl, fun _ _ => rfl⟩

theorem Answered.keepsForeign (h : Answered q u v) (hu : u.Inv) (hq : q.allowed s) (hs : KeepsForeign s u) :
    KeepsForeign s v := by
  cases h with
  | flashErase a n =>
    obtain ⟨-, -, -, hend⟩ := hq
    refine { hs with flash := fun k hk => (hs.flash k hk) ▸ ?_ }
    exact (Store.read_clear u.flash a n k).trans (if_neg (by omega))
  | flashEraseChip =>
    refine { hs with flash := fun k hk => (hs.flash k hk) ▸ ?_ }
    exact (Store.read_of_within hu.flash.2 (hs.cfg ▸ hk)).symm
  | flashWrite a b =>
    obtain ⟨-, -, -, hend⟩ := hq
    refine { hs with flash := fun k hk => (hs.flash k hk) ▸ ?_ }
    exact (Store.read_program hu.flash.1 a b k).trans (if_neg (by omega))
  | flashRead a hb => exact { hs with }
  | memWrite a b =>
    refine { hs with ram := fun k hk => (hs.ram k hk) ▸ ?_ }
    obtain ⟨-, hkind, hlow, hhigh⟩ := hq
    refine (Store.read_writeBytes hu.ram.1 a _ k).trans (if_neg fun hin => hk ⟨hkind, ?_⟩)
    rw [List.length_take] at hin
    unfold Session.covers
    omega
  | regRead a x => exact { hs with }
  | regWrite a x =>
    refine { hs with regs := fun k hk => (hs.regs k hk) ▸ ?_ }
    refine (Store.read_write hu.regs.1 a.toNat x k).trans (if_neg ?_)
    rintro rfl
    exact absurd hq (by simp [PortRequest.allowed, hk])
  | delay us => exact { hs with }

theorem Course.keepsForeign (hG : G) (hs : s.Inv) (hw : s.waiting = none) (h : Course G s u) : KeepsForeign s u := by
  induction h with
  | start => exact .refl s
  | session q infl _ _ ih => exact { ih with }
  | clearFrame _ ih => exact { ih with }
  | transaction h hq hv ih => exact hv.keepsForeign (h.inv hG hs hw) (hq hG) ih

theorem Ends.keepsForeign (hG : G) (hs : s.Inv) (hw : s.waiting = none) (h : Ends G F s t) : KeepsForeign s t := by
  cases h with
  | held q h => exact { h.keepsForeign hG hs hw with }
  | faulted e h => exact { h.keepsForeign hG hs hw with }
  | broken h => exact absurd hG h
  | sends p h hp ht =>
    have hu := h.keepsForeign hG hs hw
    cases ht <;> exact { hu with }

/-! ## The overflow -/

/-- No rule reads bytes, so none touches the overflow (R24, R25). -/
theorem Ends.overflow (h : Ends G F s t) : t.ovf = s.ovf ∧ t.ovfCnt = s.ovfCnt := by
  cases h with
  | held q h => exact ⟨h.ovf, h.ovfCnt⟩
  | faulted e h => exact ⟨h.ovf, h.ovfCnt⟩
  | broken => exact ⟨rfl, rfl⟩
  | sends p h hp ht => cases ht <;> exact ⟨h.ovf, h.ovfCnt⟩

/-! ## The frame -/

/-- What `es` says that a rule with packets of `F` did, which ended in `t` (R191, R193, R382): in HALTED, no frame and
the signal last; where MAIN waits, transactions and the one that is not answered; else one frame, after the transactions
and before the signals. -/
def OneFrame (F : List Byte → Prop) (t : State) (es : List PortEvent) : Prop :=
  if t.mode = .halted then (∀ e ∈ es, e.isTx = false) ∧ es.getLast? = some (.fatalSignal t.fatal.code)
  else if t.waiting.isSome then ∃ before q, es = before ++ [.unanswered q] ∧ t.waiting = some q
    ∧ ∀ e ∈ before, e.isTransaction = true
  else ∃ before p after, es = before ++ [sent p] ++ after ∧ (∀ e ∈ before, e.isTransaction = true)
    ∧ (∀ e ∈ after, e.isSignal = true) ∧ F p

theorem isTx_of_isTransaction {e : PortEvent} (h : e.isTransaction = true) : e.isTx = false := by
  cases e with
  | tx => cases h
  | _ => rfl

/-- After the frame come signals only, and neither HALTED nor a wait. -/
theorem After.signals (h : After G w t) (hm : w.mode ≠ .halted) (hw : w.waiting = none) :
    t.mode ≠ .halted ∧ t.waiting = none ∧ ∃ es, t.trace = w.trace ++ es ∧ ∀ e ∈ es, e.isSignal = true := by
  cases h with
  | nothing => exact ⟨hm, hw, [], by simp, nofun⟩
  | reboot => exact ⟨nofun, hw, [.resetReq], rfl, by simp [PortEvent.isSignal]⟩
  | finish entry => exact ⟨nofun, hw, [.execSignal entry], rfl, by simp [PortEvent.isSignal]⟩
  | baud rate => exact ⟨hm, hw, [.baud rate], rfl, by simp [PortEvent.isSignal]⟩
  | enter m rs hm' => exact ⟨by rcases hm' with rfl | rfl <;> nofun, hw, [], by simp, nofun⟩

theorem Ends.oneFrame (hm : s.mode ≠ .halted) (hw : s.waiting = none) (h : Ends G F s t) :
    ∃ es, t.trace = s.trace ++ es ∧ OneFrame F t es := by
  have hcourse {u} (h : Course G s u) : ∃ es, u.trace = s.trace ++ es ∧ ∀ e ∈ es, e.isTransaction = true :=
    h.emits.mono fun e he => he.1
  cases h with
  | @held u q h =>
    obtain ⟨es, htrace, hes⟩ := hcourse h
    refine ⟨es ++ [.unanswered q], by simp [htrace], ?_⟩
    have hlive : u.mode ≠ .halted := h.mode ▸ hm
    simp only [OneFrame, unanswered_mode, hlive, if_false, unanswered_waiting, Option.isSome_some, if_true]
    exact ⟨es, q, rfl, rfl, hes⟩
  | faulted e h he =>
    obtain ⟨es, htrace, hes⟩ := hcourse h
    refine ⟨es ++ [e, .fatalSignal 2], by simp [htrace, FatalCause.code], ?_⟩
    simp only [OneFrame, raiseFatal_mode, if_true]
    refine ⟨fun x hx => ?_, by simp [FatalCause.code]⟩
    rcases List.mem_append.mp hx with hx | hx
    · exact isTx_of_isTransaction (hes x hx)
    · rcases List.mem_pair.mp hx with rfl | rfl
      · exact isTx_of_isTransaction he
      · rfl
  | broken => exact ⟨[.fatalSignal 3], rfl, by simp [OneFrame, PortEvent.isTx, FatalCause.code]⟩
  | @sends u t p h hp ht =>
    obtain ⟨before, hbefore, htrans⟩ := hcourse h
    obtain ⟨hmode, hwait, after, hafter, hsig⟩ := ht.signals (h.mode ▸ hm : u.mode ≠ .halted) (h.waiting.trans hw)
    refine ⟨before ++ [sent p] ++ after, by rw [hafter]; simp [State.sending, hbefore], ?_⟩
    simp only [OneFrame, hmode, if_false, hwait, Option.isSome_none]
    exact ⟨before, p, after, rfl, htrans, hsig, hp⟩

end Sys2Proof.Machine
end

section
/-! One step of the machine as such a rule: what a turn of MAIN comes to, then what any event comes to. The statements
about every step follow. -/

namespace Sys2Proof.Machine

variable {s t u : State}

/-! ## One turn of MAIN -/

/-- The state a rule of MAIN begins in: `s` itself, or `s` after the decoder took one byte, in mode CMD or STREAM (R150,
R253). -/
inductive Begins (s : State) : State → Prop
  | here : Begins s s
  | byte (x : Byte) {rest : List Byte} (hm : s.mode = .cmd ∨ s.mode = .stream) (hr : s.rxq = x :: rest) :
    Begins s { s with rxq := rest, dstate := (slipByte s.cfg.frameCap s.dstate s.fbuf x).dstate,
                      fbuf := (slipByte s.cfg.frameCap s.dstate s.fbuf x).fbuf }

/-- What a turn of MAIN can come to, from the state `s`: it stops where it begins; the overflow is fatal, or a state
that breaks the invariant; an acknowledgement is taken; or a rule is run. -/
inductive Turn (s : State) : State → Prop
  | stops {u : State} (hu : Begins s u) : Turn s u
  | overflows : Turn s (raiseFatal .rxqOverflow s)
  | breaks {u : State} (hu : Begins s u) (h : ¬s.Inv) : Turn s (raiseFatal .invariant u)
  | acks {u : State} (hu : Begins s u) {r : ReadStream} (hr : s.rs = some r) {v : Word}
    (hlow : r.acked.toNat ≤ v.toNat) (hhigh : v.toNat ≤ r.sent.toNat) :
    Turn s { u with rs := some { r with acked := v } }
  | runs {u t : State} {G : Prop} {F : List Byte → Prop} (hu : Begins s u) (hG : s.Inv → G) (h : Ends G F u t) :
    Turn s t

theorem Begins.frame (h : Begins s u) : u = { s with rxq := u.rxq, dstate := u.dstate, fbuf := u.fbuf } := by
  cases h <;> rfl

theorem Begins.mode (h : Begins s u) : u.mode = s.mode := (congrArg State.mode h.frame :)
theorem Begins.rs (h : Begins s u) : u.rs = s.rs := (congrArg State.rs h.frame :)

/-- The decoder keeps the queue and its buffer in their bounds (R22, R27). -/
theorem Begins.inv (hs : s.Inv) (h : Begins s u) : u.Inv := by
  cases h with
  | here => exact hs
  | byte x hm hr =>
    have hbuf := slipByte_frameBufferOk ⟨hs.frame, hs.hunt⟩ x
    have hfifo := hs.fifo
    rw [hr, List.length_cons] at hfifo
    exact { hs with
      fifo := Nat.le_of_succ_le hfifo
      frame := hbuf.1
      hunt := hbuf.2
      boot := fun (hboot : s.mode = .boot) => by simp [hboot] at hm }

/-! ## The rules of MAIN -/

theorem raiseFail_ends (op : Byte) (f : Failure) (s : State) : Ends True (fun _ => True) s (raiseFail op f s) :=
  emit_ends .start trivial .nothing

theorem rejectFrame_turn (e : FrameReject) (hu : Begins s u) : Turn s (rejectFrame e u) := by
  cases e with
  | empty => exact .stops hu
  | _ => exact .runs hu (fun _ => trivial) (raiseFail_ends ..)

theorem commandFrame_turn {f : List Byte} (hm : s.mode = .cmd) (hu : Begins s u) (h : commandFrame f u = .next t) :
    Turn s t := by
  unfold commandFrame at h
  split at h
  · obtain ⟨t', ht, hends⟩ := exec_ends _ u
    cases ht.symm.trans h
    exact .runs hu (fun hs => ⟨hu.inv hs, hu.mode.trans hm⟩) hends
  · cases h
    exact rejectFrame_turn _ hu

theorem streamEnd_ends (r : ReadStream) (s : State) : Ends True (fun _ => True) s (streamEnd r s) :=
  emit_ends .start trivial (.enter .cmd none (.inl rfl) fun _ => nofun)

theorem ackFrame_turn {f : List Byte} {r : ReadStream} (hr : s.rs = some r) (hu : Begins s u) :
    Turn s (ackFrame f r u) := by
  unfold ackFrame
  split
  · exact .stops hu
  split
  · rename_i hack
    simp only [Bool.and_eq_true, decide_eq_true_eq] at hack
    obtain ⟨⟨-, hlow⟩, hhigh⟩ := hack
    exact .acks hu hr hlow hhigh
  · exact .runs hu (fun _ => trivial) (streamEnd_ends r u)

theorem deliver_turn {f : List Byte} (hm : s.mode = .cmd ∨ s.mode = .stream) (hu : Begins s u)
    (h : deliver f u = .next t) : Turn s t := by
  unfold deliver at h
  rw [hu.mode, hu.rs] at h
  rcases hm with hm | hm <;> rw [hm] at h
  · exact commandFrame_turn hm hu h
  · dsimp only at h
    split at h
    · cases h
      exact ackFrame_turn ‹_› hu
    · cases h
      refine .breaks hu fun hs => ?_
      exact hs.rs_ne_none hm ‹_›

theorem byteStep_turn (hm : s.mode = .cmd ∨ s.mode = .stream) (h : byteStep s = .next t) : Turn s t := by
  obtain ⟨-, rfl⟩ | ⟨-, -, rfl⟩ | ⟨x, rest, -, hr, hx⟩ := byteStep_next_cases h
  · exact .overflows
  · exact .stops .here
  · obtain ⟨-, rfl⟩ | ⟨f, -, hf⟩ := hx
    · exact .stops (.byte x hm hr)
    · exact deliver_turn hm (.byte x hm hr) hf

/-- The next packet of a stream: a read that lies in the flash, and a frame (R253). -/
theorem streamSend_ends {r : ReadStream} (hm : s.mode = .stream) (hr : r.ok s.cfg = true)
    (hmore : r.sent.toNat < r.len.toNat) (hwin : r.sent.toNat - r.acked.toNat < r.inflight.toNat) :
    Ends True (fun _ => True) s (streamSend r s) := by
  obtain ⟨-, -, hin, hpkt, -⟩ := (ReadStream.ok_iff s.cfg r).mp hr
  refine (flashRead_asks ..).ends .start (fun _ => ⟨by omega, by omega⟩) fun b v hb hv h => ?_
  have hlen := flashRead_ok_length hb
  have hsound := ReadStream.Sound.send hr hwin hlen
  rw [hlen, ← hv.cfg] at hsound
  have hmode : (v.sending b).mode = .stream := hv.mode.trans hm
  exact emit_ends h trivial (.enter (v.sending b).mode _ (.inr hmode) fun _ => ⟨hmode, hsound⟩)

theorem streamStep_turn (hm : s.mode = .stream) (h : streamStep s = .next t) : Turn s t := by
  obtain ⟨rfl, hbad⟩ | ⟨r, hr, hok, hcase⟩ := streamStep_next_cases h
  · refine .breaks .here fun hs => ?_
    obtain ⟨r, hr⟩ := Option.ne_none_iff_exists'.mp (hs.rs_ne_none hm)
    obtain ⟨-, hok, -⟩ := hs.sound_of_rs hr
    simp [hbad r hr] at hok
  · obtain ⟨-, rfl⟩ | ⟨-, hmore, hwin, rfl⟩ | ⟨-, -, hbyte⟩ := hcase
    · exact .runs .here (fun _ => trivial) (streamEnd_ends r s)
    · exact .runs .here (fun _ => trivial) (streamSend_ends hm hok hmore hwin)
    · exact byteStep_turn (.inr hm) hbyte

theorem bootStep_ends (hm : s.mode = .boot) : Ends s.Inv (fun _ => True) s (bootStep s) :=
  emit_ends .start trivial (.enter .cmd s.rs (.inl rfl) fun hs => by
    simp [State.streamOk, hs.rs_eq_none (by simp [hm])])

/-- What an event comes to in the state `s` it was taken from, but for the external reset. -/
inductive Moves (s : State) : State → Prop
  | waits : Moves s s
  | main {t : State} (hl : s.Live) (h : Turn s t) : Moves s t
  | receives (b : List Byte) : Moves s (pushBytes b s)

theorem mainStep_moves (h : mainStep s = .next t) : Moves s t := by
  obtain ⟨q, -, rfl⟩ | ⟨hw, hmode⟩ := mainStep_next_cases h
  · exact .waits
  · obtain ⟨hm, rfl⟩ | ⟨hm, hbyte⟩ | ⟨hm, hstream⟩ := hmode
    · exact .main ⟨hw, .inl hm⟩ (.runs .here id (bootStep_ends hm))
    · exact .main ⟨hw, .inr (.inl hm)⟩ (byteStep_turn (.inl hm) hbyte)
    · exact .main ⟨hw, .inr (.inr hm)⟩ (streamStep_turn hm hstream)

theorem step_moves (h : step s = .next t) :
    Moves { s with inbox := s.inbox.tail } t
      ∨ (s.inbox.head? = some .reset ∧ t = externalReset { s with inbox := s.inbox.tail }) := by
  obtain ⟨-, ⟨-, hmain⟩ | ⟨b, packet, es, hes, -, rfl⟩ | ⟨es, hes, rfl⟩⟩ := step_next_cases h
  · exact .inl (mainStep_moves hmain)
  · have htail : s.inbox.tail = es := by rcases hes with hes | ⟨x, hes, -⟩ <;> rw [hes] <;> rfl
    rw [htail]
    exact .inl (.receives b)
  · exact .inr ⟨by rw [hes]; rfl, by rw [hes]; rfl⟩

/-! ## The invariant after every step -/

theorem Begins.live (hl : s.Live) (h : Begins s u) : u.Live := by
  cases h <;> exact hl

theorem Turn.inv (hs : s.Inv) (hl : s.Live) (h : Turn s t) : t.Inv := by
  cases h with
  | stops hu => exact hu.inv hs
  | overflows => exact hs.raiseFatal hl.1 nofun nofun
  | breaks _ h => exact absurd hs h
  | @acks u hu r hr v hlow hhigh =>
    obtain ⟨hmode, hsound⟩ := (hu.inv hs).sound_of_rs (hu.rs.trans hr)
    have hstream : ({ u with rs := some { r with acked := v } } : State).streamOk := ⟨hmode, hsound.ack hlow hhigh⟩
    exact { hu.inv hs with stream := hstream }
  | runs hu hG h => exact h.inv (hG hs) (hu.inv hs) (hu.live hl)

theorem pushBytes_inv (hs : s.Inv) (b : List Byte) : (pushBytes b s).Inv := by
  obtain ⟨hfits, h⟩ | ⟨-, h⟩ := pushBytes_cases b s <;> rw [h]
  · exact { hs with fifo := by rw [List.length_append]; exact hfits }
  · exact { hs with counted := ⟨fun _ => saturatingSucc_ne_zero _, fun _ => rfl⟩ }

theorem externalReset_inv (hs : s.Inv) : (externalReset s).Inv where
  params := hs.params
  transport := rfl
  fifo := Nat.zero_le _
  counted := ⟨nofun, fun h => absurd rfl h⟩
  frame := Nat.zero_le _
  hunt := fun _ => rfl
  boot := fun _ => ⟨rfl, rfl⟩
  session := rfl
  stream := nofun
  fatal := ⟨fun h => absurd rfl h, nofun⟩
  reached := nofun
  waiting := nofun
  flash := hs.flash
  ram := hs.ram
  regs := hs.regs

/-- Settles O24: every rule keeps the invariant along its course and at its end, and the events of the receive FIFO and
the reset keep it too. -/
theorem stepKeepsInvariant : Obligations.StepKeepsInvariant := by
  unfold Obligations.StepKeepsInvariant
  intro s t hs h
  have htaken : ({ s with inbox := s.inbox.tail } : State).Inv := { hs with }
  obtain hmoves | ⟨-, rfl⟩ := step_moves h
  · cases hmoves with
    | waits => exact htaken
    | main hl hturn => exact hturn.inv htaken hl
    | receives b => exact pushBytes_inv htaken b
  · exact externalReset_inv htaken

/-! ## The requests of every step -/

theorem Begins.allowed (h : Begins s u) {e : PortEvent} (he : e.allowed u) : e.allowed s := by
  cases h <;> exact he

theorem Begins.trace (h : Begins s u) : u.trace = s.trace := (congrArg State.trace h.frame :)

theorem Turn.emits (hs : s.Inv) (h : Turn s t) : Emits (fun e => e.allowed s) s t := by
  cases h with
  | stops hu => exact .of_eq hu.trace
  | overflows => exact (Emits.of_eq rfl).snoc (u := s) rfl (.inl rfl)
  | breaks _ h => exact absurd hs h
  | acks hu => exact .of_eq hu.trace
  | runs hu hG h =>
    have hu' := (h.emits (hG hs)).mono fun _ => hu.allowed
    rw [Emits, hu.trace] at hu'
    exact hu'

theorem pushBytes_trace (b : List Byte) (s : State) : (pushBytes b s).trace = s.trace := by
  obtain ⟨-, h⟩ | ⟨-, h⟩ := pushBytes_cases b s <;> rw [h]

/-- Settles O25: every request on the course of a rule is allowed in the state the rule begins in. -/
theorem portRequestsAreAllowed : Obligations.PortRequestsAreAllowed := by
  unfold Obligations.PortRequestsAreAllowed
  intro s t hs h
  have htaken : ({ s with inbox := s.inbox.tail } : State).Inv := { hs with }
  suffices hemits : Emits (fun e => e.allowed { s with inbox := s.inbox.tail }) { s with inbox := s.inbox.tail } t from
    hemits
  obtain hmoves | ⟨-, rfl⟩ := step_moves h
  · cases hmoves with
    | waits => exact Emits.of_eq rfl
    | main hl hturn => exact hturn.emits htaken
    | receives b => exact Emits.of_eq (pushBytes_trace b _)
  · exact Emits.of_eq rfl

/-! ## The storage after every step -/

theorem Turn.keepsForeign (hs : s.Inv) (hl : s.Live) (h : Turn s t) : KeepsForeign s t := by
  have hbegin {u} (hu : Begins s u) : KeepsForeign s u := by cases hu <;> exact { KeepsForeign.refl s with }
  cases h with
  | stops hu => exact hbegin hu
  | overflows => exact { KeepsForeign.refl s with }
  | breaks _ h => exact absurd hs h
  | acks hu => exact { hbegin hu with }
  | runs hu hG h =>
    have hrule := h.keepsForeign (hG hs) (hu.inv hs) (hu.live hl).1
    cases hu <;> exact { hrule with }

/-- Settles O26: a request the spec allows writes only what the rule may write. -/
theorem foreignStorageIsUntouched : Obligations.ForeignStorageIsUntouched := by
  unfold Obligations.ForeignStorageIsUntouched
  intro s t hs h
  have htaken : ({ s with inbox := s.inbox.tail } : State).Inv := { hs with }
  suffices hkeeps : KeepsForeign { s with inbox := s.inbox.tail } t from
    ⟨hkeeps.cfg, hkeeps.transport, hkeeps.regs, hkeeps.ram, hkeeps.flash⟩
  obtain hmoves | ⟨-, rfl⟩ := step_moves h
  · cases hmoves with
    | waits => exact .refl _
    | main hl hturn => exact hturn.keepsForeign htaken hl
    | receives b =>
      obtain ⟨-, hpush⟩ | ⟨-, hpush⟩ := pushBytes_cases b { s with inbox := s.inbox.tail } <;> rw [hpush]
      · exact { KeepsForeign.refl { s with inbox := s.inbox.tail } with }
      · exact { KeepsForeign.refl { s with inbox := s.inbox.tail } with }
  · exact { KeepsForeign.refl { s with inbox := s.inbox.tail } with transport := hs.transport.symm }

/-! ## The overflow flag and the terminal modes -/

theorem Turn.overflow (h : Turn s t) : t.ovf = s.ovf ∧ t.ovfCnt = s.ovfCnt := by
  have hbegin {u} (hu : Begins s u) : u.ovf = s.ovf ∧ u.ovfCnt = s.ovfCnt := by cases hu <;> exact ⟨rfl, rfl⟩
  cases h with
  | stops hu => exact hbegin hu
  | overflows => exact ⟨rfl, rfl⟩
  | breaks hu => exact ⟨(hbegin hu).1, (hbegin hu).2⟩
  | acks hu => exact ⟨(hbegin hu).1, (hbegin hu).2⟩
  | runs hu _ h => exact ⟨h.overflow.1.trans (hbegin hu).1, h.overflow.2.trans (hbegin hu).2⟩

/-- Settles O18: only a push touches the flag and the counter, and it sets the one and raises the other. -/
theorem overflowIsSticky : Obligations.OverflowIsSticky := by
  unfold Obligations.OverflowIsSticky
  intro s t h hreset
  obtain hmoves | ⟨hhead, -⟩ := step_moves h
  · cases hmoves with
    | waits => exact ⟨id, le_rfl⟩
    | main _ hturn =>
      obtain ⟨hflag, hcount⟩ := hturn.overflow
      exact ⟨fun ho => hflag.trans ho, by rw [hcount]⟩
    | receives b =>
      obtain ⟨-, hpush⟩ | ⟨-, hpush⟩ := pushBytes_cases b { s with inbox := s.inbox.tail } <;> rw [hpush]
      · exact ⟨id, le_rfl⟩
      · refine ⟨fun _ => rfl, ?_⟩
        have := s.ovfCnt.isLt
        dsimp only
        rw [saturatingSucc_toNat]
        omega
  · exact absurd hhead hreset

/-- Settles O21: in a terminal mode MAIN has no rule to run, so a step is a wait or a push. -/
theorem terminalModesAreFinal : Obligations.TerminalModesAreFinal := by
  unfold Obligations.TerminalModesAreFinal
  intro s t hm h hreset
  obtain hmoves | ⟨hhead, -⟩ := step_moves h
  · cases hmoves with
    | waits => rfl
    | main hl =>
      have hlive : s.mode = .boot ∨ s.mode = .cmd ∨ s.mode = .stream := hl.2
      rcases hm with hm | hm | hm <;> simp [hm] at hlive
    | receives b =>
      obtain ⟨-, hpush⟩ | ⟨-, hpush⟩ := pushBytes_cases b { s with inbox := s.inbox.tail } <;> rw [hpush]
  · exact absurd hhead hreset

/-- Settles O22: on MAIN's turn the step is that of the mode, which is a stop. -/
theorem terminalModesStopMain : Obligations.TerminalModesStopMain := by
  unfold Obligations.TerminalModesStopMain
  intro s hok hmain
  rw [step_main hok hmain]
  refine ⟨fun hm => ?_, fun hm => ?_, fun hm => ?_⟩ <;> simp [modeStep, hm]

/-- The decode attempt of a stream that reads is that of mode CMD (R253). -/
theorem ReadStream.Reads.streamStep {r : ReadStream} (h : r.Reads s) : streamStep s = byteStep s := by
  have hwait := h.waiting
  simp only [Machine.streamStep, h.stream, h.ok, h.unfinished, Bool.not_true, Bool.false_eq_true, if_false,
    Bool.and_eq_true, decide_eq_true_eq, hwait]

/-- A step in which MAIN decodes is a decoder byte step (R150). -/
theorem step_decodes (hok : s.cfg.ok = true) (hmain : s.mainNext) (h : s.Decodes) :
    step s = byteStep { s with inbox := s.inbox.tail } := by
  rw [step_main hok hmain]
  obtain hm | ⟨r, hr⟩ := h
  · simp [modeStep, hm]
  · have htaken : r.Reads { s with inbox := s.inbox.tail } := { hr with }
    rw [← htaken.streamStep]
    simp [modeStep, hr.mode]

/-- Settles O16: the flag is looked at before the queue. -/
theorem pendingOverflowHalts : Obligations.PendingOverflowHalts := by
  unfold Obligations.PendingOverflowHalts
  intro s hok hmain hdec hovf
  rw [step_decodes hok hmain hdec, byteStep, if_pos hovf]
  rfl

/-- Settles O27: the three ends of a command's course are the three cases. -/
theorem exactlyOneResponse : Obligations.ExactlyOneResponse := by
  unfold Obligations.ExactlyOneResponse
  intro i s hm hw
  obtain ⟨t, ht, hends⟩ := exec_ends i s
  obtain ⟨es, htrace, hone⟩ := hends.oneFrame hm hw
  exact ⟨t, es, ht, htrace, hone⟩

end Sys2Proof.Machine
end

section
/-! A FLASH transaction that answers `Fault`, in each command that issues one and in the stream (R380, R381, R382). -/

namespace Sys2Proof.Machine

variable {s t u : State} {es : List PortEvent}

/-- The rule begun in `s` was ended by a FLASH fault: `es` is all that came out, and the flash is as it was (log 4). -/
def FaultedWith (es : List PortEvent) (s t : State) : Prop :=
  t.mode = .halted ∧ t.fatal = .flashFault ∧ t.flash = s.flash ∧ t.trace = s.trace ++ es

/-- The fatal tier after the last event recorded. -/
theorem raiseFatal_faultedWith {e : PortEvent} (hflash : u.flash = s.flash) (htrace : u.trace = s.trace ++ es ++ [e]) :
    FaultedWith (es ++ [e, .fatalSignal 2]) s (raiseFatal .flashFault u) :=
  ⟨rfl, rfl, hflash, by simp [htrace, FatalCause.code]⟩

/-- One more event before the rest. -/
theorem FaultedWith.cons {e : PortEvent} (h : FaultedWith es u t) (hflash : u.flash = s.flash)
    (htrace : u.trace = s.trace ++ [e]) : FaultedWith (e :: es) s t := by
  obtain ⟨hmode, hfatal, hkept, hes⟩ := h
  exact ⟨hmode, hfatal, hkept.trans hflash, by rw [hes, htrace, List.append_assoc]; rfl⟩

section
variable (hanswer : nextAnswer u = .fault) (hport : portSilent u = false)
include hanswer hport

theorem flashErase_faultedWith (a n : Nat) (k : Unit → State → State) :
    FaultedWith [.flashErase a n false, .fatalSignal 2] u ((flashErase a n u).andThen k) := by
  rw [flashErase_andThen, hport, if_neg Bool.false_ne_true, if_pos hanswer]
  exact raiseFatal_faultedWith (es := []) rfl (by simp)

theorem flashEraseChip_faultedWith (k : Unit → State → State) :
    FaultedWith [.flashEraseChip false, .fatalSignal 2] u ((flashEraseChip u).andThen k) := by
  rw [flashEraseChip_andThen, hport, if_neg Bool.false_ne_true, if_pos hanswer]
  exact raiseFatal_faultedWith (es := []) rfl (by simp)

theorem flashWrite_faultedWith (a : Nat) (b : List Byte) (k : Unit → State → State) :
    FaultedWith [.flashWrite a b false, .fatalSignal 2] u ((flashWrite a b u).andThen k) := by
  rw [flashWrite_andThen, hport, if_neg Bool.false_ne_true, if_pos hanswer]
  exact raiseFatal_faultedWith (es := []) rfl (by simp)

theorem flashRead_faultedWith (a n : Nat) (k : List Byte → State → State) :
    FaultedWith [.flashRead a n none, .fatalSignal 2] u ((flashRead a n u).andThen k) := by
  rw [flashRead_andThen, hport, if_neg Bool.false_ne_true, if_pos hanswer]
  exact raiseFatal_faultedWith (es := []) rfl (by simp)

end

theorem modeStep_stream (hm : s.mode = .stream) : modeStep s = streamStep s := by
  simp only [modeStep, hm]

/-- A stream that has bytes to send and room in its window sends (R253). -/
theorem streamStep_of_send {r : ReadStream} (hrs : s.rs = some r) (hr : r.ok s.cfg = true)
    (hmore : r.sent.toNat < r.len.toNat) (hwin : r.sent.toNat - r.acked.toNat < r.inflight.toNat) :
    streamStep s = .next (streamSend r s) := by
  have hunfinished : r.acked ≠ r.len := fun h => by
    have := ((ReadStream.ok_iff s.cfg r).mp hr).1
    rw [h] at this
    omega
  simp only [streamStep, hrs, hr, Bool.not_true, Bool.false_eq_true, if_false, hunfinished, hmore, hwin, decide_true,
    Bool.and_self, if_true]

section
variable (hanswer : nextAnswer s = .fault) (hport : portSilent s = false)
include hanswer hport

/-! ## The commands with one FLASH transaction -/

theorem beginFlash_faultedWith (c : Opcode) (kind : SessionKind) (infl : Option Inflate) {p : List Byte}
    (hp : BeginAccepted (InFlash s) p s) (hpos : 0 < (beginErase p s).2) :
    FaultedWith [.flashErase (beginErase p s).1 (beginErase p s).2 false, .fatalSignal 2] s
      (beginFlash c kind infl p s) := by
  have hchecks : beginChecks s.cfg (inFlash s.cfg) p = none :=
    (beginChecks_eq_none _ p s).mpr ⟨hp.shape, hp.block, (inFlash_iff s _ _).mpr hp.region⟩
  unfold beginFlash
  dsimp only
  rw [show beginChecks (discardSession s).cfg (inFlash (discardSession s).cfg) p = none from hchecks]
  dsimp only
  rw [if_pos (show 0 < (eraseRange (discardSession s).cfg _ _).2 from hpos)]
  exact flashErase_faultedWith (u := discardSession s) hanswer hport _ _ _

theorem execFlashData_faultedWith {v : Word} {p : List Byte} (hp : DataAccepted .flash v p s)
    (hs : s.sessionOk = true) (hpos : 0 < writtenLen p s) :
    ∃ t, exec (.flashData v p) s = .next t
      ∧ FaultedWith [.flashWrite (writtenAt s) ((dataBytes p).take (writtenLen p s)) false, .fatalSignal 2] s t := by
  refine ⟨_, rfl, ?_⟩
  have htrimmed : 0 < trimmed p s := hpos
  simp only [(dataChecks_eq_none _ _ _ _).mpr hp, hs, Bool.not_true, Bool.false_eq_true, if_false, if_pos htrimmed]
  exact flashWrite_faultedWith hanswer hport _ _ _

/-- Whether the output fits or exceeds what remains, the part that does not exceed it is written first. -/
theorem writeInflated_faultedWith (data : List Byte) {out : List Byte} (st : Inflate)
    (hpos : 0 < min out.length s.sess.room) :
    FaultedWith [.flashWrite s.sess.writeAddr (out.take s.sess.room) false, .fatalSignal 2] s
      (writeInflated data out st s) := by
  obtain ⟨hout, hroom⟩ := Nat.lt_min.mp hpos
  unfold writeInflated
  rw [if_pos hroom, if_pos hout]
  split
  · exact flashWrite_faultedWith hanswer hport _ _ _
  · rw [List.take_of_length_le (by omega)]
    exact flashWrite_faultedWith hanswer hport _ _ _

theorem execFlashDeflData_faultedWith {v : Word} {p : List Byte} {st : Inflate} (hp : DataAccepted .defl v p s)
    (hs : s.sessionOk = true) (hst : s.infl = some st)
    (hpos : 0 < min (inflateFeed s.cfg.inflateWindow st (dataBytes p)).1.length s.sess.room) :
    ∃ t, exec (.flashDeflData v p) s = .next t
      ∧ FaultedWith [.flashWrite (writtenAt s)
          ((inflateFeed s.cfg.inflateWindow st (dataBytes p)).1.take s.sess.room) false, .fatalSignal 2] s t := by
  refine ⟨_, rfl, ?_⟩
  simp only [(dataChecks_eq_none _ _ _ _).mpr hp, hs, Bool.not_true, Bool.false_eq_true, if_false, hst]
  generalize inflateFeed s.cfg.inflateWindow st (dataBytes p) = fed at *
  exact writeInflated_faultedWith (s := { s with infl := some fed.2 }) hanswer hport _ _ hpos

theorem execEraseFlash_faultedWith (v : Word) :
    ∃ t, exec (.eraseFlash v []) s = .next t ∧ FaultedWith [.flashEraseChip false, .fatalSignal 2] s t :=
  ⟨_, rfl, flashEraseChip_faultedWith hanswer hport _⟩

theorem execEraseRegion_faultedWith (v : Word) {p : List Byte} (hlen : p.length = 8)
    (haddr : (wordAt p 0).toNat % s.cfg.sectorSize = 0) (hsize : (wordAt p 1).toNat % s.cfg.sectorSize = 0)
    (hin : InFlash s (wordAt p 0).toNat (wordAt p 1).toNat) (hpos : wordAt p 1 ≠ 0) :
    ∃ t, exec (.eraseRegion v p) s = .next t
      ∧ FaultedWith [.flashErase (wordAt p 0).toNat (wordAt p 1).toNat false, .fatalSignal 2] s t := by
  refine ⟨_, rfl, ?_⟩
  have hpos : 0 < (wordAt p 1).toNat := Nat.pos_of_ne_zero fun h => hpos (BitVec.eq_of_toNat_eq h)
  simp only [hlen, haddr, hsize, (inFlash_iff s _ _).mpr hin, ne_eq, not_true_eq_false, decide_false, Bool.or_self,
    Bool.not_true, Bool.false_eq_true, if_false, if_pos hpos]
  exact flashErase_faultedWith hanswer hport _ _ _

theorem step_streamSend_faultedWith {r : ReadStream} (hok : s.cfg.ok = true) (hmain : s.mainNext)
    (hm : s.mode = .stream) (hrs : s.rs = some r) (hr : r.ok s.cfg = true) (hmore : r.sent.toNat < r.len.toNat)
    (hwin : r.sent.toNat - r.acked.toNat < r.inflight.toNat) :
    ∃ t, step s = .next t
      ∧ FaultedWith [.flashRead (r.addr.toNat + r.sent.toNat) (min r.pkt.toNat (r.len.toNat - r.sent.toNat)) none,
          .fatalSignal 2] s t := by
  refine ⟨streamSend r { s with inbox := s.inbox.tail }, ?_,
    flashRead_faultedWith (u := { s with inbox := s.inbox.tail }) hanswer hport _ _ _⟩
  rw [step_main hok hmain, modeStep_stream (s := { s with inbox := s.inbox.tail }) hm]
  exact streamStep_of_send hrs hr hmore hwin

end

/-! ## SPI_FLASH_MD5, which reads sector by sector -/

/-- Read k of the digest of [a, a+left): where, how much, and what the port answers. -/
def digestRead (s : State) (a left k : Nat) : PortEvent :=
  .flashRead (a + k * s.cfg.sectorSize) (min s.cfg.sectorSize (left - k * s.cfg.sectorSize))
    (some (answerBytes s (a + k * s.cfg.sectorSize) (min s.cfg.sectorSize (left - k * s.cfg.sectorSize))
      (answerAt s k)))

theorem digestRead_zero (s : State) (a left : Nat) :
    digestRead s a left 0 = .flashRead a (min s.cfg.sectorSize left)
      (some (answerBytes s a (min s.cfg.sectorSize left) (nextAnswer s))) := by
  simp [digestRead, nextAnswer_eq_answerAt]

/-- After a first read of a whole sector the others are those of the rest of the region. -/
theorem digestRead_succ (e : PortEvent) (s : State) (a left k : Nat) :
    digestRead s a left (k + 1)
      = digestRead (record e (drawn s)) (a + s.cfg.sectorSize) (left - s.cfg.sectorSize) k := by
  have hanswer : answerAt (record e (drawn s)) k = answerAt s (k + 1) := answerAt_drawn s k
  unfold digestRead
  rw [hanswer, record_cfg, drawn_cfg, Nat.succ_mul, Nat.add_comm (k * _), ← Nat.add_assoc, ← Nat.sub_sub]
  rfl

theorem map_digestRead_succ (e : PortEvent) (s : State) (a left j : Nat) :
    (List.range (j + 1)).map (digestRead s a left) = digestRead s a left 0
      :: (List.range j).map (digestRead (record e (drawn s)) (a + s.cfg.sectorSize) (left - s.cfg.sectorSize)) := by
  rw [List.range_succ_eq_map, List.map_cons, List.map_map]
  congr 2
  exact funext fun k => digestRead_succ e s a left k

/-- The reads before the one that faults are answered, and the digest stops there. -/
theorem digestFlash_faultedWith {k : Md5Context → State → State} (j : Nat) :
    ∀ (fuel a left : Nat) (c : Md5Context) (s : State), left ≤ fuel → 0 < s.cfg.sectorSize →
      j * s.cfg.sectorSize < left → (∀ i, i < j → answerAt s i ≠ .fault) → answerAt s j = .fault →
      s.portsAnswer (j + 1) →
      FaultedWith ((List.range j).map (digestRead s a left)
          ++ [.flashRead (a + j * s.cfg.sectorSize) (min s.cfg.sectorSize (left - j * s.cfg.sectorSize)) none,
              .fatalSignal 2]) s ((digestFlash fuel a left c s).andThen k) := by
  induction j with
  | zero =>
    intro fuel a left c s hfuel _ hleft _ hfault hports
    obtain ⟨fuel, rfl⟩ := Nat.exists_eq_add_one_of_ne_zero (show fuel ≠ 0 by omega)
    rw [digestFlash, if_neg (by omega), PortResult.bind_andThen]
    simp only [Nat.zero_mul, Nat.add_zero, Nat.sub_zero]
    exact flashRead_faultedWith ((nextAnswer_eq_answerAt s).trans hfault) (portSilent_eq_false hports) _ _ _
  | succ j ih =>
    intro fuel a left c s hfuel hsec hleft hanswers hfault hports
    rw [Nat.succ_mul] at hleft ⊢
    have hfirst : nextAnswer s ≠ .fault := nextAnswer_eq_answerAt s ▸ hanswers 0 (by omega)
    have hwhole : min s.cfg.sectorSize left = s.cfg.sectorSize := Nat.min_eq_left (by omega)
    obtain ⟨fuel, rfl⟩ := Nat.exists_eq_add_one_of_ne_zero (show fuel ≠ 0 by omega)
    rw [digestFlash, if_neg (by omega), PortResult.bind_andThen, flashRead_andThen, portSilent_eq_false hports,
      if_neg Bool.false_ne_true, if_neg hfirst, ← digestRead_zero, record_cfg, drawn_cfg, hwhole,
      map_digestRead_succ (digestRead s a left 0), Nat.add_comm (j * _), ← Nat.add_assoc, ← Nat.sub_sub]
    have hanswer (i) : answerAt (record (digestRead s a left 0) (drawn s)) i = answerAt s (i + 1) := answerAt_drawn s i
    have hrest := ih fuel (a + s.cfg.sectorSize) (left - s.cfg.sectorSize)
      (md5Update c (answerBytes s a s.cfg.sectorSize (nextAnswer s))) (record (digestRead s a left 0) (drawn s))
      (by omega) hsec (show j * s.cfg.sectorSize < _ by omega) (fun i hi => hanswer i ▸ hanswers (i + 1) (by omega))
      ((hanswer j).trans hfault) (portsAnswer_after hports (record_trace ..) rfl)
    exact hrest.cons (s := s) rfl (record_trace ..)

theorem execSpiFlashMd5_of_inFlash (v : Word) {p : List Byte} (hlen : p.length = 16)
    (hin : InFlash s (wordAt p 0).toNat (wordAt p 1).toNat) :
    exec (.spiFlashMd5 v p) s
      = .next ((digestFlash (wordAt p 1).toNat (wordAt p 0).toNat (wordAt p 1).toNat md5Init s).andThen fun c s =>
          (respond .spiFlashMd5 0 (md5Final c) s).done) := by
  simp only [exec, execSpiFlashMd5, hlen, (inFlash_iff s _ _).mpr hin, ne_eq, not_true_eq_false, if_false,
    Bool.not_true, Bool.false_eq_true]

/-- Settles O28: the transaction that faults ends the rule, clause by clause. -/
theorem flashFaultHalts : Obligations.FlashFaultHalts := by
  unfold Obligations.FlashFaultHalts
  intro s
  constructor
  · intro v p hlen hin addr size sector at' len j hj hanswers hfault hports
    have hsec : 0 < sector := Nat.pos_of_ne_zero fun h => by simp [h] at hj
    have hleft : j * sector < size := by
      have := (Nat.le_div_iff_mul_le hsec).mp hj
      rw [Nat.succ_mul] at this
      omega
    obtain ⟨hmode, hfatal, hflash, htrace⟩ := digestFlash_faultedWith
      (k := fun c s => (respond .spiFlashMd5 0 (md5Final c) s).done) j size addr size md5Init s le_rfl hsec hleft
      hanswers hfault hports
    exact ⟨_, execSpiFlashMd5_of_inFlash v hlen hin, hmode, hfatal, hflash, by rw [htrace, ← List.append_assoc]; rfl⟩
  · intro hanswer hports
    have hport := portSilent_eq_false hports
    refine ⟨fun v p hp hpos => ⟨_, rfl, beginFlash_faultedWith hanswer hport _ _ _ hp hpos⟩,
      fun v p hp hpos => ⟨_, rfl, beginFlash_faultedWith hanswer hport _ _ _ hp hpos⟩,
      fun v p hp hs hpos => execFlashData_faultedWith hanswer hport hp hs hpos,
      fun v p st hp hs hst hpos => execFlashDeflData_faultedWith hanswer hport hp hs hst hpos,
      fun v => execEraseFlash_faultedWith hanswer hport v,
      fun v p hlen haddr hsize hin hpos => execEraseRegion_faultedWith hanswer hport v hlen haddr hsize hin hpos,
      fun r hok hmain hm hrs hr hmore hwin => step_streamSend_faultedWith hanswer hport hok hmain hm hrs hr hmore hwin⟩

end Sys2Proof.Machine
end

section
/-! What a rule does whose ports answer: each transaction is then one change of the state and the rule goes on from
there (R64). FLASH answers here are any but `Fault`; a rule that has nothing to ask for leaves the transaction out. -/

namespace Sys2Proof.Machine

variable {s t : State}

/-! ## The ports ahead -/

/-- What is left of the transactions that are answered, after some have taken place. -/
theorem portsAnswer_of_append {es : List PortEvent} {j k : Nat} (h : s.portsAnswer k) (ht : t.trace = s.trace ++ es)
    (hs : t.silent = s.silent) (hjk : es.length + j ≤ k) : t.portsAnswer j := fun i hi => by
  rw [ht, hs, List.length_append, Nat.add_assoc]
  exact h _ (by omega)

/-- The answers after d draws are those from the d-th on. -/
theorem answerAt_of_drop {d : Nat} (ha : t.answers = s.answers.drop d) (hd : t.draws = s.draws + d) (j : Nat) :
    answerAt t j = answerAt s (d + j) := by
  unfold answerAt
  rw [ha, hd, List.getElem?_drop, Nat.add_assoc]

/-! ## FLASH transactions answered -/

section
variable (hport : portSilent s = false) (hans : nextAnswer s ≠ .fault)
include hport hans

theorem flashErase_andThen_answered (a n : Nat) (k : Unit → State → State) :
    (flashErase a n s).andThen k
      = k () (record (.flashErase a n true) { drawn s with flash := s.flash.clear a n }) := by
  rw [flashErase_andThen, hport, if_neg Bool.false_ne_true, if_neg hans]

theorem flashEraseChip_andThen_answered (k : Unit → State → State) :
    (flashEraseChip s).andThen k
      = k () (record (.flashEraseChip true) { drawn s with flash := s.flash.clearAll }) := by
  rw [flashEraseChip_andThen, hport, if_neg Bool.false_ne_true, if_neg hans]

theorem flashWrite_andThen_answered (a : Nat) (b : List Byte) (k : Unit → State → State) :
    (flashWrite a b s).andThen k
      = k () (record (.flashWrite a b true) { drawn s with flash := s.flash.program a b }) := by
  rw [flashWrite_andThen, hport, if_neg Bool.false_ne_true, if_neg hans]

theorem flashRead_andThen_answered (a n : Nat) (k : List Byte → State → State) :
    (flashRead a n s).andThen k
      = k (answerBytes s a n (nextAnswer s))
          (record (.flashRead a n (some (answerBytes s a n (nextAnswer s)))) (drawn s)) := by
  rw [flashRead_andThen, hport, if_neg Bool.false_ne_true, if_neg hans]

end

theorem emit_andThen_answered (hport : portSilent s = false) (p : List Byte) (k : Unit → State → State) :
    (emit p s).andThen k = k () (s.sending p) := by
  rw [emit_andThen, hport, if_neg Bool.false_ne_true]

/-! ## Erases and writes of n bytes, left out where n is 0 -/

/-- `s` after the transaction of event `e`, which left `m` in the flash, where there were bytes to ask for. -/
def afterFlash (n : Nat) (e : PortEvent) (m : Memory 0xFF) (s : State) : State :=
  if 0 < n then record e { drawn s with flash := m } else s

section
variable (n : Nat) (e : PortEvent) (m : Memory 0xFF) (s : State)

/-- The flash, the answers and the trace are all that moves. -/
theorem afterFlash_frame : afterFlash n e m s =
    { s with flash := (afterFlash n e m s).flash, answers := (afterFlash n e m s).answers,
             draws := (afterFlash n e m s).draws, trace := (afterFlash n e m s).trace } := by
  unfold afterFlash
  split <;> rfl

@[simp] theorem afterFlash_cfg : (afterFlash n e m s).cfg = s.cfg :=
  (congrArg State.cfg (afterFlash_frame n e m s) :)
@[simp] theorem afterFlash_sess : (afterFlash n e m s).sess = s.sess :=
  (congrArg State.sess (afterFlash_frame n e m s) :)
@[simp] theorem afterFlash_silent : (afterFlash n e m s).silent = s.silent :=
  (congrArg State.silent (afterFlash_frame n e m s) :)

theorem afterFlash_flash : (afterFlash n e m s).flash = if 0 < n then m else s.flash := by
  unfold afterFlash
  split <;> rfl

theorem afterFlash_trace : (afterFlash n e m s).trace = s.trace ++ if 0 < n then [e] else [] := by
  unfold afterFlash
  split <;> simp

theorem afterFlash_draws : ((afterFlash n e m s).answers, (afterFlash n e m s).draws)
    = if 0 < n then (s.answers.tail, s.draws + 1) else (s.answers, s.draws) := by
  unfold afterFlash
  split <;> rfl

end

section
variable {k : Nat} (hports : s.portsAnswer (k + 1))
include hports

/-- At most one transaction has taken place. -/
theorem afterFlash_portsAnswer (n : Nat) (e : PortEvent) (m : Memory 0xFF) :
    (afterFlash n e m s).portsAnswer k := by
  refine portsAnswer_of_append hports (afterFlash_trace n e m s) (afterFlash_silent n e m s) ?_
  split
  · rw [List.length_singleton]; omega
  · rw [List.length_nil]; omega

variable {n : Nat} (hans : 0 < n → nextAnswer s ≠ .fault)
include hans

theorem flashErase_if_andThen (a : Nat) (f : Unit → State → State) :
    (if 0 < n then flashErase a n s else .ok () s).andThen f
      = f () (afterFlash n (.flashErase a n true) (s.flash.clear a n) s) := by
  unfold afterFlash
  split
  · exact flashErase_andThen_answered (portSilent_eq_false hports) (hans ‹_›) a n f
  · rfl

theorem flashWrite_if_andThen (a : Nat) (b : List Byte) (f : Unit → State → State) :
    (if 0 < n then flashWrite a b s else .ok () s).andThen f
      = f () (afterFlash n (.flashWrite a b true) (s.flash.program a b) s) := by
  unfold afterFlash
  split
  · exact flashWrite_andThen_answered (portSilent_eq_false hports) (hans ‹_›) a b f
  · rfl

end

/-- Nothing is erased where there is nothing to erase. -/
theorem afterFlash_erase_read (a n : Nat) (e : PortEvent) (s : State) (k : Nat) :
    (afterFlash n e (s.flash.clear a n) s).flash.read k = if a ≤ k ∧ k < a + n then 0xFF else s.flash.read k := by
  rw [afterFlash_flash]
  split
  · exact Store.read_clear s.flash a n k
  · rw [if_neg (by omega)]

/-- Nothing is written where there is nothing to write. -/
theorem afterFlash_write_read (hwf : s.flash.wf = true) (a : Nat) {n : Nat} {b : List Byte} (hb : b.length = n)
    (e : PortEvent) (k : Nat) :
    (afterFlash n e (s.flash.program a b) s).flash.read k
      = if a ≤ k ∧ k < a + n then s.flash.read k &&& b.getD (k - a) 0 else s.flash.read k := by
  subst hb
  rw [afterFlash_flash]
  split
  · exact Store.read_program hwf a b k
  · rw [if_neg (by omega)]

theorem afterFlash_wf {m : Memory 0xFF} (hm : m.wf = true) (hs : s.flash.wf = true) (n : Nat) (e : PortEvent) :
    (afterFlash n e m s).flash.wf = true := by
  rw [afterFlash_flash]
  split
  · exact hm
  · exact hs

/-! ## The erases and the stream -/

theorem execEraseFlash_answered (v : Word) (hports : s.portsAnswer 2) (hans : nextAnswer s ≠ .fault) :
    exec (.eraseFlash v []) s
      = .next ((record (.flashEraseChip true) { drawn s with flash := s.flash.clearAll }).acking .eraseFlash) := by
  have hports' := portsAnswer_after (e := .flashEraseChip true) (t := record (.flashEraseChip true)
    { drawn s with flash := s.flash.clearAll }) hports rfl rfl
  rw [← ack_eq_acking _ hports']
  exact congrArg _ (flashEraseChip_andThen_answered (portSilent_eq_false hports) hans _)

/-- A region that ERASE_REGION accepts (R262). -/
structure EraseAccepted (p : List Byte) (s : State) : Prop where
  shape : p.length = 8
  start : (wordAt p 0).toNat % s.cfg.sectorSize = 0
  size : (wordAt p 1).toNat % s.cfg.sectorSize = 0
  region : InFlash s (wordAt p 0).toNat (wordAt p 1).toNat

theorem execEraseRegion_answered (v : Word) {p : List Byte} (hp : EraseAccepted p s) (hports : s.portsAnswer 2)
    (hans : 0 < (wordAt p 1).toNat → nextAnswer s ≠ .fault) :
    exec (.eraseRegion v p) s
      = .next ((afterFlash (wordAt p 1).toNat (.flashErase (wordAt p 0).toNat (wordAt p 1).toNat true)
          (s.flash.clear (wordAt p 0).toNat (wordAt p 1).toNat) s).acking .eraseRegion) := by
  rw [← ack_eq_acking _ (afterFlash_portsAnswer hports _ _ _), exec, execEraseRegion]
  simp only [hp.shape, hp.start, hp.size, (inFlash_iff s _ _).mpr hp.region, ne_eq, not_true_eq_false, decide_false,
    Bool.or_self, Bool.not_true, Bool.false_eq_true, if_false]
  exact congrArg _ (flashErase_if_andThen hports hans _ _)

/-- Settles O52: the equations of the two rules, and what is read after an erase. -/
theorem erasesEraseTheirRegion : Obligations.ErasesEraseTheirRegion := by
  unfold Obligations.ErasesEraseTheirRegion
  intro v p s hports
  refine ⟨fun hans => ⟨_, execEraseFlash_answered v hports hans, fun _ => rfl, ?_⟩,
    fun hlen hstart hsize hin hne hans => ?_, fun hlen hstart hin hzero => ?_⟩
  · simp [State.acking, State.sending, record, drawn]
  · have hpos : 0 < (wordAt p 1).toNat := Nat.pos_of_ne_zero fun h => hne (BitVec.eq_of_toNat_eq h)
    refine ⟨_, execEraseRegion_answered v ⟨hlen, hstart, hsize, hin⟩ hports fun _ => hans,
      fun a => afterFlash_erase_read _ _ _ _ _, ?_⟩
    simp [State.acking, State.sending, afterFlash, hpos, record, drawn]
  · have hsize : (wordAt p 1).toNat = 0 := by rw [hzero]; rfl
    have hp : EraseAccepted p s := ⟨hlen, hstart, by simp [hsize], by rw [hsize]; exact hin⟩
    rw [execEraseRegion_answered v hp hports (by omega)]
    simp [afterFlash, hsize]

/-- A packet the stream sends is read, sent, and counted (R252, R253). -/
theorem streamSend_answered {r : ReadStream} (hports : s.portsAnswer 2) (hans : nextAnswer s ≠ .fault) :
    let n := min r.pkt.toNat (r.len.toNat - r.sent.toNat)
    let b := answerBytes s (r.addr.toNat + r.sent.toNat) n (nextAnswer s)
    streamSend r s
      = { (record (.flashRead (r.addr.toNat + r.sent.toNat) n (some b)) (drawn s)).sending b with
          rs := some { r with md5 := md5Update r.md5 b, sent := r.sent + BitVec.ofNat 32 n } } := by
  intro n b
  have hsend : portSilent (record (.flashRead (r.addr.toNat + r.sent.toNat) n (some b)) (drawn s)) = false :=
    portSilent_eq_false (k := 0) (portsAnswer_after hports (record_trace ..) rfl)
  rw [streamSend, flashRead_andThen_answered (portSilent_eq_false hports) hans]
  exact emit_andThen_answered hsend b _

/-- Settles O49: with the window open the step is that packet's. -/
theorem streamSendsTheNextPacket : Obligations.StreamSendsTheNextPacket := by
  unfold Obligations.StreamSendsTheNextPacket
  intro s r hok hmain hm hrs hr hmore hwin hans hports n b
  refine ⟨answerBytes_length .., fun h => by simp only [b, h, answerBytes_stored], ?_⟩
  have hsent : BitVec.ofNat 32 (r.sent.toNat + n) = r.sent + BitVec.ofNat 32 n := by
    rw [BitVec.ofNat_add, BitVec.ofNat_toNat, BitVec.setWidth_eq]
  rw [step_main hok hmain, modeStep_stream (s := { s with inbox := s.inbox.tail }) hm,
    streamStep_of_send (s := { s with inbox := s.inbox.tail }) hrs hr hmore hwin,
    streamSend_answered (s := { s with inbox := s.inbox.tail }) hports hans, hsent]
  simp only [State.sending, record, drawn, List.append_assoc]
  rfl

end Sys2Proof.Machine
end

section
/-! The data commands where their checks pass and the ports answer: the write, the session, the response (R204 to R208,
R215, R232). -/

namespace Sys2Proof.Machine

variable {s : State} {v : Word} {p : List Byte}

/-! ## The data and its place -/

/-- The bytes that are written are bytes of the payload, after its four words (R91). -/
theorem getD_take_dataBytes {n i : Nat} (hi : i < n) (hn : n ≤ dataLen p) :
    ((dataBytes p).take n).getD i 0 = byteAt p (16 + i) := by
  rw [dataBytes, List.take_take, Nat.min_eq_left hn, byteAt, List.getD_eq_getElem?_getD, List.getD_eq_getElem?_getD,
    List.getElem?_take_of_lt hi, List.getElem?_drop]

/-- What an accepted data command relies on: its session is open and keeps R31. -/
theorem DataAccepted.written_le {kind : SessionKind} (hp : DataAccepted kind v p s) (hkind : kind ≠ .none)
    (hs : s.sessionOk = true) : s.sess.written.toNat ≤ s.sess.total.toNat := by
  obtain ⟨hnone | ⟨hw, -⟩, -⟩ := (sessionOk_iff s).mp hs
  · exact absurd (hp.session.symm.trans hnone) hkind
  · exact hw

/-- Bytes that fit are counted without wrapping. -/
theorem Session.written_advanced {q : Session} {n : Nat} (hw : q.written.toNat ≤ q.total.toNat) (hn : n ≤ q.room)
    (d : List Byte) : (q.advanced n d).written.toNat = q.written.toNat + n := by
  have := q.total.isLt
  unfold Session.room at hn
  rw [Session.advanced, BitVec.toNat_add, BitVec.toNat_ofNat]
  omega

theorem writtenLen_le_room (p : List Byte) (s : State) : writtenLen p s ≤ s.sess.room := trimmed_le_room p s

theorem writtenLen_le_dataLen (p : List Byte) (s : State) : writtenLen p s ≤ dataLen p := Nat.min_le_left ..

/-! ## FLASH_DATA and FLASH_DEFL_DATA -/

/-- `s` after a write of `b` to the flash at the session's address, left out where there is nothing to write (R204). -/
def afterWrite (b : List Byte) (s : State) : State :=
  afterFlash b.length (.flashWrite (writtenAt s) b true) (s.flash.program (writtenAt s) b) s

theorem afterWrite_read (hwf : s.flash.wf = true) (b : List Byte) (k : Nat) :
    (afterWrite b s).flash.read k
      = if writtenAt s ≤ k ∧ k < writtenAt s + b.length then s.flash.read k &&& byteAt b (k - writtenAt s)
        else s.flash.read k :=
  afterFlash_write_read hwf _ rfl _ k

/-- The state a data command leaves that wrote `b` to the flash, of the data `d` (R204, R206, R208, R232). -/
def afterFlashData (c : Opcode) (b d : List Byte) (s : State) : State :=
  (accept b.length d (afterWrite b s)).acking c

section
variable (c : Opcode) (b d : List Byte) (s : State)

theorem afterFlashData_sess : (afterFlashData c b d s).sess = s.sess.advanced b.length d := by
  show Session.advanced (afterWrite b s).sess _ _ = _
  rw [afterWrite, afterFlash_sess]

theorem afterFlashData_flash : (afterFlashData c b d s).flash = (afterWrite b s).flash := rfl

theorem afterFlashData_trace : (afterFlashData c b d s).trace = s.trace
    ++ (if 0 < b.length then [.flashWrite (writtenAt s) b true] else [])
    ++ [sent (okPacket (s.cfg.opcodes.code c))] := by
  show (afterWrite b s).trace ++ [sent (okPacket ((afterWrite b s).cfg.opcodes.code c))] = _
  rw [afterWrite, afterFlash_trace, afterFlash_cfg]

theorem afterFlashData_draws : ((afterFlashData c b d s).answers, (afterFlashData c b d s).draws)
    = if 0 < b.length then (s.answers.tail, s.draws + 1) else (s.answers, s.draws) :=
  afterFlash_draws ..

theorem afterFlashData_frame : afterFlashData c b d s =
    { s with sess := (afterFlashData c b d s).sess, flash := (afterFlashData c b d s).flash,
             answers := (afterFlashData c b d s).answers, draws := (afterFlashData c b d s).draws,
             trace := (afterFlashData c b d s).trace } := by
  unfold afterFlashData afterWrite afterFlash
  split <;> rfl

end

theorem afterWrite_andThen_ack (c : Opcode) (b d : List Byte) (hports : s.portsAnswer 2)
    (hans : 0 < b.length → nextAnswer s ≠ .fault) :
    ((if 0 < b.length then flashWrite (writtenAt s) b s else .ok () s).andThen fun _ s => ack c (accept b.length d s))
      = afterFlashData c b d s := by
  have hports' : (accept b.length d (afterWrite b s)).portsAnswer 1 := afterFlash_portsAnswer hports _ _ _
  rw [flashWrite_if_andThen hports hans, afterFlashData, ← ack_eq_acking _ hports', afterWrite]

/-- The bytes that an accepted FLASH_DATA or MEM_DATA writes. -/
theorem length_take_writtenLen (hp : DataShape p) (s : State) :
    ((dataBytes p).take (writtenLen p s)).length = writtenLen p s := length_take_trimmed hp s

theorem execFlashData_answered (hp : DataAccepted .flash v p s) (hs : s.sessionOk = true) (hports : s.portsAnswer 2)
    (hans : 0 < writtenLen p s → nextAnswer s ≠ .fault) :
    exec (.flashData v p) s
      = .next (afterFlashData .flashData ((dataBytes p).take (writtenLen p s)) (dataBytes p) s) := by
  have hlen := length_take_writtenLen hp.shape s
  have hrun := afterWrite_andThen_ack .flashData ((dataBytes p).take (writtenLen p s)) (dataBytes p) hports
    (by rwa [hlen])
  rw [hlen] at hrun
  rw [exec, execFlashData, ← hrun]
  simp only [(dataChecks_eq_none _ _ _ _).mpr hp, hs, Bool.not_true, Bool.false_eq_true, if_false]
  rfl

/-- Settles O37: the state FLASH_DATA leaves, field by field. -/
theorem flashDataWritesAndAdvances : Obligations.FlashDataWritesAndAdvances := by
  unfold Obligations.FlashDataWritesAndAdvances
  intro v p s hp hs hwf hports hans
  have hlen := length_take_writtenLen hp.shape s
  have hsess := afterFlashData_sess .flashData ((dataBytes p).take (writtenLen p s)) (dataBytes p) s
  have hread := afterWrite_read hwf ((dataBytes p).take (writtenLen p s))
  have htrace := afterFlashData_trace .flashData ((dataBytes p).take (writtenLen p s)) (dataBytes p) s
  have hdraws := afterFlashData_draws .flashData ((dataBytes p).take (writtenLen p s)) (dataBytes p) s
  have hframe := afterFlashData_frame .flashData ((dataBytes p).take (writtenLen p s)) (dataBytes p) s
  have hexec := execFlashData_answered hp hs hports hans
  rw [← afterFlashData_flash .flashData ((dataBytes p).take (writtenLen p s)) (dataBytes p)] at hread
  generalize afterFlashData .flashData ((dataBytes p).take (writtenLen p s)) (dataBytes p) s = t at *
  rw [hlen] at hsess hread htrace hdraws
  refine ⟨t, hexec, hsess, ?_, fun a => (hread a).trans ?_, htrace, hdraws, hframe⟩
  · rw [hsess, Session.written_advanced (hp.written_le nofun hs) (writtenLen_le_room p s)]
  · refine if_ctx_congr Iff.rfl (fun hin => ?_) fun _ => rfl
    rw [byteAt, getD_take_dataBytes (by omega) (writtenLen_le_dataLen p s)]

theorem execFlashDeflData_answered {st st' : Inflate} {out : List Byte} (hp : DataAccepted .defl v p s)
    (hs : s.sessionOk = true) (hst : s.infl = some st)
    (hfed : inflateFeed s.cfg.inflateWindow st (dataBytes p) = (out, st')) (hout : out.length ≤ s.sess.room)
    (hphase : st'.phase ≠ .error) (hports : s.portsAnswer 2) (hans : 0 < out.length → nextAnswer s ≠ .fault) :
    exec (.flashDeflData v p) s
      = .next (afterFlashData .flashDeflData out (dataBytes p) { s with infl := some st' }) := by
  have hrun := afterWrite_andThen_ack (s := { s with infl := some st' }) .flashDeflData out (dataBytes p) hports hans
  have hstatus : st'.status ≠ .error := by
    unfold Inflate.status
    split
    · contradiction
    · nofun
    · nofun
  rw [exec, execFlashDeflData, ← hrun]
  simp only [(dataChecks_eq_none _ _ _ _).mpr hp, hs, Bool.not_true, Bool.false_eq_true, if_false, hst, hfed,
    writeInflated, if_neg (Nat.not_lt.mpr hout)]
  rfl

/-- Settles O39: the state FLASH_DEFL_DATA leaves, field by field. -/
theorem deflDataWritesAndAdvances : Obligations.DeflDataWritesAndAdvances := by
  unfold Obligations.DeflDataWritesAndAdvances
  intro v p s st st' out hp hs hwf hst hfed hout hphase hports hans
  have hsess := afterFlashData_sess .flashDeflData out (dataBytes p) { s with infl := some st' }
  have hframe := afterFlashData_frame .flashDeflData out (dataBytes p) { s with infl := some st' }
  have hread := afterWrite_read (s := { s with infl := some st' }) hwf out
  have htrace := afterFlashData_trace .flashDeflData out (dataBytes p) { s with infl := some st' }
  have hdraws := afterFlashData_draws .flashDeflData out (dataBytes p) { s with infl := some st' }
  have hexec := execFlashDeflData_answered hp hs hst hfed hout hphase hports hans
  rw [← afterFlashData_flash .flashDeflData out (dataBytes p)] at hread
  generalize afterFlashData .flashDeflData out (dataBytes p) { s with infl := some st' } = t at *
  have hinfl := congrArg State.infl hframe
  refine ⟨t, hexec, hsess, ?_, hinfl, hread, htrace, hdraws, ?_⟩
  · rw [hsess]
    exact Session.written_advanced (hp.written_le nofun hs) hout _
  · rw [hinfl]
    exact hframe

/-! ## MEM_DATA -/

/-- `s` after a write of `b` to the RAM at the session's address, left out where there is nothing to write (R215). -/
def afterMemWrite (b : List Byte) (s : State) : State :=
  if 0 < b.length then
    record (.memWrite (writtenAt s) b) { s with ram := s.ram.writeBytes (writtenAt s) (b.take (2 ^ 32 - writtenAt s)) }
  else s

theorem afterMemWrite_frame (b : List Byte) (s : State) : afterMemWrite b s =
    { s with ram := (afterMemWrite b s).ram
             trace := s.trace ++ if 0 < b.length then [.memWrite (writtenAt s) b] else [] } := by
  unfold afterMemWrite
  split <;> simp [record]

/-- Past the end of the RAM nothing is stored (log 25). -/
theorem afterMemWrite_read (hwf : s.ram.wf = true) (b : List Byte) (k : Nat) :
    (afterMemWrite b s).ram.read k
      = if writtenAt s ≤ k ∧ k < writtenAt s + b.length ∧ k < 2 ^ 32 then byteAt b (k - writtenAt s)
        else s.ram.read k := by
  unfold afterMemWrite
  split
  · have hin : (writtenAt s ≤ k ∧ k < writtenAt s + (b.take (2 ^ 32 - writtenAt s)).length)
        ↔ writtenAt s ≤ k ∧ k < writtenAt s + b.length ∧ k < 2 ^ 32 := by rw [List.length_take]; omega
    refine (Store.read_writeBytes hwf _ _ k).trans (if_ctx_congr hin (fun h => ?_) fun _ => rfl)
    rw [byteAt, List.getD_eq_getElem?_getD, List.getD_eq_getElem?_getD, List.getElem?_take_of_lt (by omega)]
  · rw [if_neg (by omega)]

theorem execMemData_answered (hp : DataAccepted .mem v p s) (hs : s.sessionOk = true) (hports : s.portsAnswer 2) :
    exec (.memData v p) s
      = .next ((accept (writtenLen p s) (dataBytes p)
          (afterMemWrite ((dataBytes p).take (writtenLen p s)) s)).acking .memData) := by
  have hlen := length_take_writtenLen hp.shape s
  have htrimmed : trimmed p s = writtenLen p s := rfl
  rw [exec, execMemData]
  simp only [(dataChecks_eq_none _ _ _ _).mpr hp, hs, Bool.not_true, Bool.false_eq_true, if_false, htrimmed,
    afterMemWrite, hlen]
  split
  · rw [memWrite_andThen, portSilent_eq_false hports, if_neg Bool.false_ne_true]
    exact congrArg _ (ack_eq_acking _ (portsAnswer_after hports (record_trace ..) rfl))
  · exact congrArg _ (ack_eq_acking (s := accept _ _ s) _ (portsAnswer_le hports (by omega)))

/-- Settles O38: the state MEM_DATA leaves, field by field. -/
theorem memDataWritesAndAdvances : Obligations.MemDataWritesAndAdvances := by
  unfold Obligations.MemDataWritesAndAdvances
  intro v p s hp hs hwf hports
  have hlen := length_take_writtenLen hp.shape s
  have hread := afterMemWrite_read hwf ((dataBytes p).take (writtenLen p s))
  have hframe := afterMemWrite_frame ((dataBytes p).take (writtenLen p s)) s
  rw [hlen] at hread hframe
  refine ⟨_, execMemData_answered hp hs hports, ?_⟩
  generalize afterMemWrite _ s = w at hread hframe
  have hsess : ((accept (writtenLen p s) (dataBytes p) w).acking .memData).sess
      = s.sess.advanced (writtenLen p s) (dataBytes p) := by rw [hframe]; rfl
  rw [hsess]
  refine ⟨rfl, Session.written_advanced (hp.written_le nofun hs) (writtenLen_le_room p s) _, fun a => ?_, ?_, ?_⟩
  · refine (hread a).trans (if_ctx_congr Iff.rfl (fun hin => ?_) fun _ => rfl)
    rw [byteAt, getD_take_dataBytes (by omega) (writtenLen_le_dataLen p s)]
  · rw [hframe]; rfl
  · rw [hframe]; rfl

end Sys2Proof.Machine
end

section
/-! SPI_FLASH_MD5 where its reads are answered (R265, R266): it reads sector by sector, and the digest of the pieces is
that of the range (R305). -/

namespace Sys2Proof.Machine

/-! ## The digest of bytes that arrive in pieces -/

/-- What is pending and how much was absorbed is no matter of the compression. -/
theorem md5Compress_set_pend (x : Md5Context) (m : List Byte) (n : Nat) (p : List Byte) :
    md5Compress { x with nbytes := n, pend := p } m = { md5Compress x m with nbytes := n, pend := p } := by
  delta md5Compress
  dsimp only

theorem blocksWith_add (compress : Md5Context → List Byte → Md5Context) (j k : Nat) (x : Md5Context) :
    blocksWith compress (j + k) x = blocksWith compress k (blocksWith compress j x) := by
  induction j generalizing x with
  | zero => rw [Nat.zero_add]; rfl
  | succ j ih => rw [Nat.succ_add]; exact ih _

section
variable {compress : Md5Context → List Byte → Md5Context}
  (hset : ∀ x m n p, compress { x with nbytes := n, pend := p } m = { compress x m with nbytes := n, pend := p })
include hset

/-- Bytes that arrive behind whole blocks are not read by them. -/
theorem blocksWith_set_pend (k : Nat) (x : Md5Context) (n : Nat) (b : List Byte) (hk : 64 * k ≤ x.pend.length) :
    blocksWith compress k { x with nbytes := n, pend := x.pend ++ b }
      = { blocksWith compress k x with nbytes := n, pend := (blocksWith compress k x).pend ++ b } := by
  induction k generalizing x with
  | zero => rfl
  | succ k ih =>
    rw [Nat.mul_succ] at hk
    have hrest : 64 * k ≤ (x.pend.drop 64).length := by rw [List.length_drop]; omega
    rw [blocksWith, blocksWith, hset, List.take_append_of_le_length (by omega),
      List.drop_append_of_le_length (by omega)]
    exact ih { compress x (x.pend.take 64) with pend := x.pend.drop 64 } hrest

/-- Whole blocks first, and what arrives later with what they left. -/
theorem blocksWith_append (x : Md5Context) (n : Nat) (b : List Byte) :
    blocksWith compress ((x.pend ++ b).length / 64) { x with nbytes := n, pend := x.pend ++ b }
      = let y := blocksWith compress (x.pend.length / 64) x
        blocksWith compress ((y.pend ++ b).length / 64) { y with nbytes := n, pend := y.pend ++ b } := by
  have hblocks : 64 * (x.pend.length / 64) ≤ x.pend.length := by omega
  have hcount : (x.pend ++ b).length / 64
      = x.pend.length / 64 + ((blocksWith compress (x.pend.length / 64) x).pend ++ b).length / 64 := by
    rw [blocksWith_pend, List.length_append, List.length_append, List.length_drop]
    omega
  rw [hcount, blocksWith_add, blocksWith_set_pend hset _ x n b hblocks]

end

theorem md5Update_append (x : Md5Context) (a b : List Byte) :
    md5Update (md5Update x a) b = md5Update x (a ++ b) := by
  have happend := blocksWith_append md5Compress_set_pend { x with pend := x.pend ++ a, nbytes := x.nbytes + a.length }
    (x.nbytes + a.length + b.length) b
  simp only [md5Update, md5Blocks_eq, blocksWith_nbytes md5Compress_nbytes]
  rw [List.length_append (as := a), ← List.append_assoc, ← Nat.add_assoc]
  exact happend.symm

/-- Pieces absorbed one after another. -/
theorem foldl_md5Update (x : Md5Context) (b : List Byte) (pieces : List (List Byte)) :
    pieces.foldl md5Update (md5Update x b) = md5Update x (b ++ pieces.flatten) := by
  induction pieces generalizing b with
  | nil => rw [List.foldl_nil, List.flatten_nil, List.append_nil]
  | cons d ds ih => rw [List.foldl_cons, md5Update_append, ih, List.flatten_cons, List.append_assoc]

theorem md5Update_init_nil : md5Update md5Init [] = md5Init := rfl

theorem md5Final_foldl (pieces : List (List Byte)) :
    md5Final (pieces.foldl md5Update md5Init) = md5 pieces.flatten := by
  have hfold := foldl_md5Update md5Init [] pieces
  rw [md5Update_init_nil, List.nil_append] at hfold
  rw [hfold, md5]

theorem md5Final_length (x : Md5Context) : (md5Final x).length = 16 := by
  simp only [md5Final, List.length_append, put32_length]

theorem md5_length (b : List Byte) : (md5 b).length = 16 := md5Final_length _

/-- A response with a digest as its body (R265): 18 bytes of data with the status. -/
theorem successPacket_digest (op : Byte) {d : List Byte} (hd : d.length = 16) :
    successPacket op 0 d = [0x01, op, 18, 0, 0, 0, 0, 0] ++ d ++ [0x00, 0x00] := by
  have hlen : (d ++ [0x00, 0x00]).length = 18 := by rw [List.length_append, hd]; rfl
  rw [successPacket, responsePacket, hlen]
  exact (List.append_assoc ..).symm

/-! ## The reads -/

theorem Store.readBytes_add {fill : Byte} (m : Memory fill) (a n k : Nat) :
    m.readBytes a (n + k) = m.readBytes a n ++ m.readBytes (a + n) k := by
  simp only [Store.readBytes, List.range_add, List.map_append, List.map_map, Function.comp_def, Nat.add_assoc]

/-- The first k pieces of a range, of `sec` bytes each, are the range as far as they reach. -/
theorem Store.flatMap_readBytes {fill : Byte} (m : Memory fill) (a size sec k : Nat) :
    (List.range k).flatMap (fun j => m.readBytes (a + j * sec) (min sec (size - j * sec)))
      = m.readBytes a (min size (k * sec)) := by
  induction k with
  | zero => simp [Store.readBytes]
  | succ k ih =>
    rw [List.range_succ, List.flatMap_append, ih, List.flatMap_singleton, Nat.succ_mul]
    rcases Nat.le_total size (k * sec) with h | h
    · rw [Nat.sub_eq_zero_of_le h, Nat.min_zero, Nat.min_eq_left h, Nat.min_eq_left (by omega)]
      simp [Store.readBytes]
    · rw [Nat.min_eq_right h, ← Store.readBytes_add]
      congr 1
      omega

/-- The bytes of read k of the digest of [a, a+left). -/
def digestData (s : State) (a left k : Nat) : List Byte :=
  answerBytes s (a + k * s.cfg.sectorSize) (min s.cfg.sectorSize (left - k * s.cfg.sectorSize)) (answerAt s k)

theorem digestData_succ (e : PortEvent) (s : State) (a left k : Nat) :
    digestData s a left (k + 1)
      = digestData (record e (drawn s)) (a + s.cfg.sectorSize) (left - s.cfg.sectorSize) k := by
  obtain ⟨-, -, hdata⟩ := PortEvent.flashRead.inj (digestRead_succ e s a left k)
  exact Option.some.inj hdata

theorem map_digestData_succ (e : PortEvent) (s : State) (a left j : Nat) :
    (List.range (j + 1)).map (digestData s a left) = digestData s a left 0
      :: (List.range j).map (digestData (record e (drawn s)) (a + s.cfg.sectorSize) (left - s.cfg.sectorSize)) := by
  rw [List.range_succ_eq_map, List.map_cons, List.map_map]
  congr 2
  exact funext fun k => digestData_succ e s a left k

theorem digestData_zero (s : State) (a left : Nat) :
    digestData s a left 0 = answerBytes s a (min s.cfg.sectorSize left) (nextAnswer s) := by
  simp [digestData, nextAnswer_eq_answerAt]

/-- `s` after the first j reads of the digest of [a, a+left). -/
def afterReads (s : State) (a left j : Nat) : State :=
  { s with answers := s.answers.drop j, draws := s.draws + j,
           trace := s.trace ++ (List.range j).map (digestRead s a left) }

theorem afterReads_zero (s : State) (a left : Nat) : afterReads s a left 0 = s := by simp [afterReads]

theorem afterReads_succ (s : State) (a left j : Nat) :
    afterReads s a left (j + 1) = afterReads (record (digestRead s a left 0) (drawn s)) (a + s.cfg.sectorSize)
      (left - s.cfg.sectorSize) j := by
  rw [afterReads, map_digestRead_succ (digestRead s a left 0), afterReads]
  simp [record, drawn, Nat.add_comm 1, Nat.add_assoc]

/-- With nothing left there is nothing to read. -/
theorem digestFlash_nil (fuel a : Nat) (c : Md5Context) (s : State) : digestFlash fuel a 0 c s = .ok c s := by
  cases fuel <;> rfl

theorem flashRead_answered {s : State} (hport : portSilent s = false) (hans : nextAnswer s ≠ .fault) (a n : Nat) :
    flashRead a n s = .ok (answerBytes s a n (nextAnswer s))
      (record (.flashRead a n (some (answerBytes s a n (nextAnswer s)))) (drawn s)) := by
  rw [flashRead, request, hport, if_neg Bool.false_ne_true]
  split
  · contradiction
  · rfl

/-- All reads of the digest are answered: j is how many sectors' lengths cover the range. -/
theorem digestFlash_answered (j : Nat) :
    ∀ (fuel a left : Nat) (c : Md5Context) (s : State), left ≤ fuel → left ≤ j * s.cfg.sectorSize →
      j * s.cfg.sectorSize < left + s.cfg.sectorSize → (∀ i, i < j → answerAt s i ≠ .fault) → s.portsAnswer j →
      digestFlash fuel a left c s
        = .ok (((List.range j).map (digestData s a left)).foldl md5Update c) (afterReads s a left j) := by
  induction j with
  | zero =>
    intro fuel a left c s _ hlow _ _ _
    obtain rfl : left = 0 := by omega
    rw [digestFlash_nil, afterReads_zero]
    rfl
  | succ j ih =>
    intro fuel a left c s hfuel hlow hhigh hanswers hports
    rw [Nat.succ_mul] at hlow hhigh
    obtain ⟨fuel, rfl⟩ := Nat.exists_eq_add_one_of_ne_zero (show fuel ≠ 0 by omega)
    have hread : flashRead a (min s.cfg.sectorSize left) s
        = .ok (digestData s a left 0) (record (digestRead s a left 0) (drawn s)) := by
      rw [digestData_zero, digestRead_zero]
      exact flashRead_answered (portSilent_eq_false hports) (nextAnswer_eq_answerAt s ▸ hanswers 0 (by omega)) _ _
    have hanswer (i) : answerAt (record (digestRead s a left 0) (drawn s)) i = answerAt s (i + 1) := answerAt_drawn s i
    rw [digestFlash, if_neg (by omega), hread, PortResult.bind_ok, record_cfg, drawn_cfg, afterReads_succ,
      map_digestData_succ (digestRead s a left 0), List.foldl_cons]
    obtain hlast | hmore := le_or_gt left s.cfg.sectorSize
    · have hj : j * s.cfg.sectorSize < 1 * s.cfg.sectorSize := by omega
      obtain rfl : j = 0 := Nat.lt_one_iff.mp (Nat.lt_of_mul_lt_mul_right hj)
      rw [Nat.min_eq_right hlast, Nat.sub_self, digestFlash_nil, afterReads_zero]
      rfl
    · rw [Nat.min_eq_left hmore.le]
      exact ih fuel _ _ _ _ (by omega) (show _ ≤ j * s.cfg.sectorSize by omega)
        (show j * s.cfg.sectorSize < _ + s.cfg.sectorSize by omega)
        (fun i hi => hanswer i ▸ hanswers (i + 1) (by omega)) (portsAnswer_after hports (record_trace ..) rfl)

/-- Where its reads are answered, SPI_FLASH_MD5 responds with the digest of what they gave (R265). -/
theorem execSpiFlashMd5_answered {s : State} {p : List Byte} {j : Nat} (v : Word) (hlen : p.length = 16)
    (hin : InFlash s (wordAt p 0).toNat (wordAt p 1).toNat) (hlow : (wordAt p 1).toNat ≤ j * s.cfg.sectorSize)
    (hhigh : j * s.cfg.sectorSize < (wordAt p 1).toNat + s.cfg.sectorSize)
    (hanswers : ∀ i, i < j → answerAt s i ≠ .fault) (hports : s.portsAnswer (j + 1)) :
    exec (.spiFlashMd5 v p) s
      = .next ((afterReads s (wordAt p 0).toNat (wordAt p 1).toNat j).sending
          ([0x01, s.cfg.opcodes.spiFlashMd5, 18, 0, 0, 0, 0, 0]
            ++ md5 ((List.range j).flatMap (digestData s (wordAt p 0).toNat (wordAt p 1).toNat)) ++ [0x00, 0x00])) := by
  have hrespond : portSilent (afterReads s (wordAt p 0).toNat (wordAt p 1).toNat j) = false := by
    refine portSilent_eq_false (k := 0) (portsAnswer_of_append hports rfl rfl ?_)
    rw [List.length_map, List.length_range]
  rw [execSpiFlashMd5_of_inFlash v hlen hin, digestFlash_answered j _ _ _ _ s le_rfl hlow hhigh hanswers
    (portsAnswer_le hports (by omega)), PortResult.andThen_ok, md5Final_foldl, ← List.flatMap_def,
    respond, PortResult.done, emit_andThen_answered hrespond, successPacket_digest _ (md5_length _)]
  rfl

/-- Settles O53: the reads cover the range, and so does what they give where the flash answers as stored. -/
theorem spiFlashMd5DigestsTheRange : Obligations.SpiFlashMd5DigestsTheRange := by
  unfold Obligations.SpiFlashMd5DigestsTheRange
  intro v p s hok hlen hin addr size sector reads at' len data hanswers hports
  have hsec : 0 < sector := sectorSize_pos hok
  have hdiv : sector * reads + (size + sector - 1) % sector = size + sector - 1 := Nat.div_add_mod ..
  have hmod := Nat.mod_lt (size + sector - 1) hsec
  rw [Nat.mul_comm] at hdiv
  have hlow : size ≤ reads * sector := by omega
  have hhigh : reads * sector < size + sector := by omega
  refine ⟨fun hstored => ?_, execSpiFlashMd5_answered v hlen hin hlow hhigh hanswers hports⟩
  have hdata : ∀ j ∈ List.range reads,
      data j = s.flash.readBytes (addr + j * sector) (min sector (size - j * sector)) :=
    fun j hj => by simp only [data, hstored j (List.mem_range.mp hj), answerBytes_stored, at', len]
  rw [List.flatMap_congr hdata, Store.flatMap_readBytes, Nat.min_eq_left hlow]

end Sys2Proof.Machine
end

section
/-! A whole flash session against R76's reference flash (R77, R267): FLASH_BEGIN erases the region, each block is
programmed over erased bytes behind the one before, and the digest reads them back. -/

namespace Sys2Proof.Machine

variable {s t u : State}

/-! ## Answers as stored -/

/-- The next k answers are those of the reference flash, and the next n transactions are answered. -/
structure Stored (s : State) (k n : Nat) : Prop where
  answers : ∀ j, j < k → answerAt s j = .stored
  ports : s.portsAnswer n

theorem Stored.of_later {d k k' n n' : Nat} {es : List PortEvent} (h : Stored s k n)
    (ha : t.answers = s.answers.drop d) (hd : t.draws = s.draws + d) (ht : t.trace = s.trace ++ es)
    (hs : t.silent = s.silent) (hk : d + k' ≤ k) (hn : es.length + n' ≤ n) : Stored t k' n' where
  answers j hj := (answerAt_of_drop ha hd j).trans (h.answers _ (by omega))
  ports := portsAnswer_of_append h.ports ht hs hn

theorem Stored.nextAnswer_ne_fault {k n : Nat} (h : Stored s (k + 1) n) : nextAnswer s ≠ .fault := by
  rw [nextAnswer_eq_answerAt, h.answers 0 (by omega)]
  nofun

theorem stored_afterFlash {k m : Nat} (h : Stored s (k + 1) (m + 1)) (n : Nat) (e : PortEvent) (x : Memory 0xFF) :
    Stored (afterFlash n e x s) k m := by
  unfold afterFlash
  split
  · exact h.of_later (d := 1) (es := [e]) List.drop_one.symm rfl rfl rfl (by omega) (by simp; omega)
  · exact h.of_later (d := 0) (es := []) rfl rfl (List.append_nil _).symm rfl (by omega) (by simp)

theorem stored_sending {k n : Nat} (h : Stored s k (n + 1)) (p : List Byte) : Stored (s.sending p) k n :=
  h.of_later (d := 0) (es := [sent p]) rfl rfl rfl rfl (by omega) (by simp; omega)

/-! ## FLASH_BEGIN -/

/-- The state in which a BEGIN has erased its region, before it opens the session (R202). -/
def afterErase (p : List Byte) (s : State) : State :=
  afterFlash (beginErase p s).2 (.flashErase (beginErase p s).1 (beginErase p s).2 true)
    (s.flash.clear (beginErase p s).1 (beginErase p s).2) (discardSession s)

/-- The state in which it has opened the session, with the inflater of that kind of session (R202, R230). -/
def afterBegin (kind : SessionKind) (infl : Option Inflate) (p : List Byte) (s : State) : State :=
  { afterErase p s with sess := openedSession kind p s, infl := infl }

theorem afterErase_cfg (p : List Byte) (s : State) : (afterErase p s).cfg = s.cfg := afterFlash_cfg ..

theorem beginFlash_answered {p : List Byte} (c : Opcode) (kind : SessionKind) (infl : Option Inflate)
    (hp : BeginAccepted (InFlash s) p s) (hports : s.portsAnswer 2)
    (hans : 0 < (beginErase p s).2 → nextAnswer s ≠ .fault) :
    beginFlash c kind infl p s = (afterBegin kind infl p s).acking c := by
  have hchecks : beginChecks s.cfg (inFlash s.cfg) p = none :=
    (beginChecks_eq_none _ p s).mpr ⟨hp.shape, hp.block, (inFlash_iff s _ _).mpr hp.region⟩
  have hports' : (afterBegin kind infl p s).portsAnswer 1 :=
    afterFlash_portsAnswer (s := discardSession s) hports _ _ _
  have hopen : openSession (afterErase p s).cfg kind p = openedSession kind p s := by rw [afterErase_cfg]; rfl
  have herase := flashErase_if_andThen (s := discardSession s) hports hans (beginErase p s).1
    fun _ w => ack c { w with sess := openSession w.cfg kind p, infl := infl }
  rw [← ack_eq_acking c hports', beginFlash]
  simp only [discardSession_cfg, hchecks]
  refine herase.trans ?_
  rw [afterBegin, ← hopen]
  rfl

/-- A region that is not empty lies in the range that is erased for it (R203). -/
theorem eraseRange_covers {c : Config} (hok : c.ok = true) {a n k : Nat} (hlow : a ≤ k) (hhigh : k < a + n) :
    (eraseRange c a n).1 ≤ k ∧ k < (eraseRange c a n).1 + (eraseRange c a n).2 := by
  have hsec := sectorSize_pos hok
  have hstart := Nat.div_mul_le_self a c.sectorSize
  have hstop := Nat.div_add_mod' (a + n + (c.sectorSize - 1)) c.sectorSize
  have hmod := Nat.mod_lt (a + n + (c.sectorSize - 1)) hsec
  simp only [eraseRange, if_neg (show n ≠ 0 by omega)]
  omega

/-! ## One block -/

theorem dataPayload_eq_append (seq : Nat) (d : List Byte) :
    dataPayload seq d
      = (put32 (BitVec.ofNat 32 d.length) ++ put32 (BitVec.ofNat 32 seq) ++ put32 0 ++ put32 0) ++ d := rfl

theorem wordAt_zero_dataPayload (seq : Nat) (d : List Byte) : wordAt (dataPayload seq d) 0 = BitVec.ofNat 32 d.length :=
  put32_join _

theorem wordAt_one_dataPayload (seq : Nat) (d : List Byte) : wordAt (dataPayload seq d) 1 = BitVec.ofNat 32 seq :=
  put32_join _

theorem dataLen_dataPayload (seq : Nat) {d : List Byte} (hd : d.length < 2 ^ 32) :
    (wordAt (dataPayload seq d) 0).toNat = d.length := by
  rw [wordAt_zero_dataPayload, BitVec.toNat_ofNat, Nat.mod_eq_of_lt hd]

theorem dataBytes_dataPayload (seq : Nat) {d : List Byte} (hd : d.length < 2 ^ 32) :
    dataBytes (dataPayload seq d) = d := by
  rw [dataBytes, dataLen, dataLen_dataPayload seq hd]
  exact List.take_length

theorem dataShape_dataPayload (seq : Nat) {d : List Byte} (hd : d.length < 2 ^ 32) : DataShape (dataPayload seq d) := by
  have hlen : (dataPayload seq d).length = 16 + d.length := by
    rw [dataPayload_eq_append, List.length_append]; rfl
  exact ⟨by omega, by rw [dataLen_dataPayload seq hd, hlen]⟩

/-- In the middle of a FLASH session: the next block is number `seq`, and n bytes of the region are to come, all of them
still erased. -/
structure Writing (s : State) (seq n : Nat) : Prop where
  kind : s.sess.kind = .flash
  ok : s.sessionOk = true
  wf : s.flash.wf = true
  order : s.sess.nextSeq = BitVec.ofNat 32 seq
  rest : s.sess.written.toNat + n = s.sess.total.toNat
  erased : ∀ a, writtenAt s ≤ a → a < writtenAt s + n → s.flash.read a = 0xFF

/-- From `s` to `t` the open session took the bytes b: they stand in the flash at the session's address, the flash
before it is as it was, and the session counts them (R206, R208). -/
structure Took (s t : State) (b : List Byte) : Prop where
  cfg : t.cfg = s.cfg
  kind : t.sess.kind = s.sess.kind
  base : t.sess.base = s.sess.base
  total : t.sess.total = s.sess.total
  bsize : t.sess.bsize = s.sess.bsize
  written : t.sess.written.toNat = s.sess.written.toNat + b.length
  rcsum : t.sess.rcsum = s.sess.rcsum ^^^ xorBytes b
  stored : t.flash.readBytes (writtenAt s) b.length = b
  below : ∀ a, a < writtenAt s → t.flash.read a = s.flash.read a

theorem Took.writtenAt_eq {b : List Byte} (h : Took s t b) : writtenAt t = writtenAt s + b.length := by
  rw [writtenAt, h.base, h.written, ← Nat.add_assoc]
  rfl

theorem xorBytes_append (a b : List Byte) : xorBytes (a ++ b) = xorBytes a ^^^ xorBytes b := by
  have hfold (x : Byte) (l : List Byte) : l.foldl (fun acc y => acc ^^^ y) x = x ^^^ xorBytes l := by
    induction l generalizing x with
    | nil => exact BitVec.xor_zero.symm
    | cons y l ih =>
      rw [xorBytes, List.foldl_cons, List.foldl_cons, ih, ih, show 0 ^^^ y = y from BitVec.zero_xor, BitVec.xor_assoc]
  rw [xorBytes, List.foldl_append, hfold]
  rfl

theorem Store.readBytes_congr {fill : Byte} {m m' : Memory fill} {a n : Nat}
    (h : ∀ i, i < n → m.read (a + i) = m'.read (a + i)) : m.readBytes a n = m'.readBytes a n :=
  List.map_congr_left fun i hi => h i (List.mem_range.mp hi)

/-- What reads as the bytes of `b` one by one reads as `b`. -/
theorem Store.readBytes_eq {fill : Byte} {m : Memory fill} {a : Nat} {b : List Byte}
    (h : ∀ i, i < b.length → m.read (a + i) = byteAt b i) : m.readBytes a b.length = b := by
  refine List.ext_getElem (Store.readBytes_length ..) fun i _ hi => ?_
  simp [Store.readBytes, h i hi, byteAt, hi]

theorem Took.nil (s : State) : Took s s [] where
  cfg := rfl
  kind := rfl
  base := rfl
  total := rfl
  bsize := rfl
  written := rfl
  rcsum := BitVec.xor_zero.symm
  stored := rfl
  below _ _ := rfl

/-- A block behind another. -/
theorem Took.append {d b : List Byte} (h : Took s u d) (h' : Took u t b) : Took s t (d ++ b) where
  cfg := h'.cfg.trans h.cfg
  kind := h'.kind.trans h.kind
  base := h'.base.trans h.base
  total := h'.total.trans h.total
  bsize := h'.bsize.trans h.bsize
  written := by rw [h'.written, h.written, List.length_append, Nat.add_assoc]
  rcsum := by rw [h'.rcsum, h.rcsum, xorBytes_append, BitVec.xor_assoc]
  stored := by
    have hfirst : t.flash.readBytes (writtenAt s) d.length = u.flash.readBytes (writtenAt s) d.length :=
      Store.readBytes_congr fun i hi => h'.below _ (by rw [h.writtenAt_eq]; omega)
    rw [List.length_append, Store.readBytes_add, hfirst, h.stored, ← h.writtenAt_eq, h'.stored]
  below a ha := (h'.below a (by rw [h.writtenAt_eq]; omega)).trans (h.below a ha)

section
variable {seq n : Nat} {d : List Byte} (h : Writing s seq (d.length + n))
include h

/-- The command that carries the next block passes every check of R205. -/
theorem Writing.accepted (hd : d.length ≤ s.sess.bsize.toNat) :
    DataAccepted .flash ((csum s.cfg.csumSeed d).setWidth 32) (dataPayload seq d) s := by
  have hlt : d.length < 2 ^ 32 := lt_of_le_of_lt hd s.sess.bsize.isLt
  have hrest := h.rest
  refine ⟨dataShape_dataPayload seq hlt, h.kind, ?_, ?_, by rw [dataBytes_dataPayload seq hlt], fun _ hne hfull => ?_⟩
  · rw [dataLen_dataPayload seq hlt]; exact hd
  · rw [wordAt_one_dataPayload, h.order]
  · rw [dataLen_dataPayload seq hlt] at hne
    rw [hfull] at hrest
    omega

/-- All of the block fits, and all of it is written. -/
theorem Writing.exec_flashData (hd : d.length ≤ s.sess.bsize.toNat) (hports : s.portsAnswer 2)
    (hans : nextAnswer s ≠ .fault) :
    exec (.flashData ((csum s.cfg.csumSeed d).setWidth 32) (dataPayload seq d)) s
      = .next (afterFlashData .flashData d d s) := by
  have hlt : d.length < 2 ^ 32 := lt_of_le_of_lt hd s.sess.bsize.isLt
  have hrest := h.rest
  have hlen : writtenLen (dataPayload seq d) s = d.length := by
    rw [writtenLen, dataLen_dataPayload seq hlt]; omega
  rw [execFlashData_answered (h.accepted hd) h.ok hports fun _ => hans, hlen, dataBytes_dataPayload seq hlt,
    List.take_length]

theorem Writing.written_advanced : (s.sess.advanced d.length d).written.toNat = s.sess.written.toNat + d.length := by
  have hrest := h.rest
  exact Session.written_advanced (by omega) (by unfold Session.room; omega) d

/-- Where the block goes the flash was erased, so the AND of R76 leaves the block's bytes. -/
theorem Writing.read_afterFlashData (a : Nat) : (afterFlashData .flashData d d s).flash.read a
    = if writtenAt s ≤ a ∧ a < writtenAt s + d.length then byteAt d (a - writtenAt s) else s.flash.read a := by
  refine (afterWrite_read h.wf d a).trans (if_ctx_congr Iff.rfl (fun hin => ?_) fun _ => rfl)
  rw [h.erased a hin.1 (by omega)]
  exact BitVec.allOnes_and

theorem Writing.took : Took s (afterFlashData .flashData d d s) d where
  cfg := (congrArg State.cfg (afterFlashData_frame ..) :)
  kind := by rw [afterFlashData_sess]; rfl
  base := by rw [afterFlashData_sess]; rfl
  total := by rw [afterFlashData_sess]; rfl
  bsize := by rw [afterFlashData_sess]; rfl
  written := by rw [afterFlashData_sess, h.written_advanced]
  rcsum := by rw [afterFlashData_sess]; rfl
  stored := Store.readBytes_eq fun i hi => by
    rw [h.read_afterFlashData, if_pos (by omega), Nat.add_sub_cancel_left]
  below a ha := by rw [h.read_afterFlashData, if_neg (by omega)]

/-- After the block the session is one with fewer bytes to come. -/
theorem Writing.next : Writing (afterFlashData .flashData d d s) (seq + 1) n := by
  have htook := h.took
  have hsess := afterFlashData_sess .flashData d d s
  have hrest := h.rest
  have hok : (afterWrite d s).sessionOk = s.sessionOk := (congrArg State.sessionOk (afterFlash_frame ..) :)
  have hroom : d.length ≤ (afterWrite d s).sess.room := by
    rw [afterWrite, afterFlash_sess]
    unfold Session.room
    omega
  refine ⟨htook.kind.trans h.kind, accept_sessionOk (hok.trans h.ok) hroom d,
    afterFlash_wf (Store.wf_program h.wf _ _) h.wf _ _, ?_, ?_, fun a hlow hhigh => ?_⟩
  · rw [hsess, Session.advanced, h.order, BitVec.ofNat_add]; rfl
  · rw [htook.written, htook.total]; omega
  · rw [htook.writtenAt_eq] at hlow hhigh
    rw [h.read_afterFlashData, if_neg (by omega)]
    exact h.erased a (by omega) (by omega)

end

/-! ## All blocks -/

theorem execAll_cons {i : Instr} (h : exec i s = .next t) (is : List Instr) : execAll (i :: is) s = execAll is t := by
  rw [execAll, h]

theorem Writing.execAll_flashBlocks {seq k m : Nat} {blocks : List (List Byte)}
    (h : Writing s seq blocks.flatten.length)
    (hsize : ∀ d ∈ blocks, d.length ≤ s.sess.bsize.toNat)
    (hstored : Stored s (blocks.length + k) (2 * blocks.length + m)) :
    ∃ t, execAll (flashBlocks s.cfg.csumSeed seq blocks) s = .next t ∧ Took s t blocks.flatten ∧ Stored t k m := by
  induction blocks generalizing s seq with
  | nil => exact ⟨s, rfl, .nil s, by simpa using hstored⟩
  | cons d ds ih =>
    rw [List.flatten_cons, List.length_append] at h
    have hstored : Stored s (ds.length + k + 1) (2 * ds.length + m + 1 + 1) := by
      rw [List.length_cons] at hstored
      convert hstored using 1 <;> omega
    have hexec := h.exec_flashData (hsize d (.head _)) (portsAnswer_le hstored.ports (by omega))
      hstored.nextAnswer_ne_fault
    have htook := h.took
    obtain ⟨hanswers, hports⟩ : Stored (afterWrite d s) (ds.length + k) (2 * ds.length + m + 1) :=
      stored_afterFlash hstored ..
    have hstored' : Stored (afterFlashData .flashData d d s) (ds.length + k) (2 * ds.length + m) :=
      stored_sending (s := accept d.length d (afterWrite d s)) ⟨hanswers, hports⟩ _
    obtain ⟨t, ht, hrest, hlast⟩ := ih h.next
      (fun d' hd' => htook.bsize ▸ hsize d' (.tail _ hd')) hstored'
    refine ⟨t, ?_, htook.append hrest, hlast⟩
    rw [flashBlocks, execAll_cons hexec, ← ht, htook.cfg]

/-! ## The session -/

/-- After FLASH_BEGIN the whole region is to come, and it is erased. -/
theorem writing_of_begin {p : List Byte} (hok : s.cfg.ok = true) (hwf : s.flash.wf = true)
    (hp : BeginAccepted (InFlash s) p s) (c : Opcode) :
    Writing ((afterBegin .flash none p s).acking c) 0 (wordAt p 0).toNat := by
  refine ⟨rfl, (sessionOk_iff _).mpr ⟨.inr ⟨Nat.zero_le _, hp.block.1, ?_, ?_⟩, nofun, nofun⟩,
    afterFlash_wf (s := discardSession s) (Store.wf_clear hwf _ _) hwf _ _, rfl, Nat.zero_add _, fun a hlow hhigh => ?_⟩
  · exact (afterErase_cfg p s).symm ▸ hp.block.2
  · exact (afterErase_cfg p s).symm ▸ (inFlash_iff s _ _).mpr hp.region
  · exact (afterFlash_erase_read _ _ _ (discardSession s) a).trans (if_pos (eraseRange_covers hok hlow hhigh))

/-- No more reads than bytes. -/
theorem reads_le_size {size sector : Nat} (hsec : 0 < sector) : (size + sector - 1) / sector ≤ size := by
  have := Nat.le_mul_of_pos_right size hsec
  exact Nat.lt_succ_iff.mp ((Nat.div_lt_iff_lt_mul hsec).mpr (by rw [Nat.succ_mul]; omega))

/-- SPI_FLASH_MD5 over a range that reads as `b`, where the flash answers as stored. -/
theorem execSpiFlashMd5_stored {p b : List Byte} (v : Word) (hok : s.cfg.ok = true) (hlen : p.length = 16)
    (hin : InFlash s (wordAt p 0).toNat (wordAt p 1).toNat)
    (hb : s.flash.readBytes (wordAt p 0).toNat (wordAt p 1).toNat = b)
    (hstored : Stored s (wordAt p 1).toNat ((wordAt p 1).toNat + 1)) :
    ∃ u, exec (.spiFlashMd5 v p) s = .next u
      ∧ u.trace.getLast?
        = some (sent ([0x01, s.cfg.opcodes.spiFlashMd5, 18, 0, 0, 0, 0, 0] ++ md5 b ++ [0x00, 0x00])) := by
  have hreads := reads_le_size (size := (wordAt p 1).toNat) (sectorSize_pos hok)
  have hanswers j (hj : j < ((wordAt p 1).toNat + s.cfg.sectorSize - 1) / s.cfg.sectorSize) : answerAt s j = .stored :=
    hstored.answers j (by omega)
  obtain ⟨hdata, hexec⟩ := spiFlashMd5DigestsTheRange v p s hok hlen hin (fun j hj => by rw [hanswers j hj]; nofun)
    (portsAnswer_le hstored.ports (by omega))
  rw [hdata hanswers, hb] at hexec
  exact ⟨_, hexec, List.getLast?_concat⟩

/-- Settles O46: the erased region takes the blocks one behind the other, and the digest reads what stands there. -/
theorem flashSessionHoldsAndVerifiesTheBytesSent : Obligations.FlashSessionHoldsAndVerifiesTheBytesSent := by
  unfold Obligations.FlashSessionHoldsAndVerifiesTheBytesSent
  intro s v1 v2 p1 p2 blocks hok hwf hp hsize hlen hlen2 haddr hcount hanswers hports
  have hstored : Stored s (blocks.length + blocks.flatten.length + 1)
      (2 * blocks.length + (blocks.flatten.length + 1) + 1 + 1) :=
    ⟨fun j hj => hanswers j (by omega), portsAnswer_le hports (by omega)⟩
  have hbegin := beginFlash_answered .flashBegin .flash none hp (portsAnswer_le hports (by omega))
    fun _ => hstored.nextAnswer_ne_fault
  have hopen := writing_of_begin hok hwf hp .flashBegin
  obtain ⟨hanswers', hports'⟩ : Stored (afterErase p1 s) (blocks.length + blocks.flatten.length)
      (2 * blocks.length + (blocks.flatten.length + 1) + 1) :=
    stored_afterFlash (s := discardSession s) ⟨hstored.answers, hstored.ports⟩ ..
  rw [← hlen] at hopen
  obtain ⟨t, ht, htook, hlast⟩ := hopen.execAll_flashBlocks hsize
    (stored_sending (s := afterBegin .flash none p1 s) ⟨hanswers', hports'⟩ _)
  have hcfg : t.cfg = s.cfg := htook.cfg.trans (afterErase_cfg p1 s)
  have hread : t.flash.readBytes (wordAt p1 3).toNat (wordAt p1 0).toNat = blocks.flatten := hlen ▸ htook.stored
  have hfull : t.sess.written.toNat = t.sess.total.toNat := by
    rw [htook.written, htook.total]
    exact hopen.rest
  have hin : InFlash t (wordAt p1 3).toNat (wordAt p1 0).toNat := by
    rw [InFlash, hcfg]
    exact hp.region
  rw [hlen, ← hcount] at hlast
  rw [← haddr, ← hcount] at hread hin
  obtain ⟨u, hu, hsent⟩ := execSpiFlashMd5_stored v2 (hcfg ▸ hok) hlen2 hin hread hlast
  rw [hcfg] at hsent
  refine ⟨t, u, ?_, haddr ▸ hcount ▸ hread, htook.kind, BitVec.eq_of_toNat_eq hfull, htook.rcsum, hu, hsent⟩
  have hblocks : ((afterBegin .flash none p1 s).acking .flashBegin).cfg = s.cfg := afterErase_cfg p1 s
  rw [← ht, hblocks]
  exact execAll_cons (congrArg _ hbegin) _

end Sys2Proof.Machine
end

section
/-! A transaction that is never answered (R64, R417; log 26): MAIN is held at it, and the rule is cut off there. A rule
is compared with its run from the same state with every transaction answered: up to the first one that is listed as
unanswered the two take the same course. -/

namespace Sys2Proof.Machine

variable {s t u v : State}

/-! ## Held until reset -/

/-- A step takes the next event, or MAIN's turn when there is none (log 7). -/
theorem step_eq_eventStep (hok : s.cfg.ok = true) :
    step s = eventStep (s.inbox.head?.getD .mainTurn) { s with inbox := s.inbox.tail } := by
  unfold step
  rw [if_neg (by simp [hok])]
  cases hi : s.inbox with
  | nil => cases s; cases hi; rfl
  | cons e es => rfl

/-- Settles O29: a step is MAIN's held turn, a push, or the reset. -/
theorem unansweredRequestHoldsMain : Obligations.UnansweredRequestHoldsMain := by
  unfold Obligations.UnansweredRequestHoldsMain
  intro s q hok hq
  refine ⟨fun hm => ?_, fun t h hreset => ?_, fun hr => ⟨externalReset { s with inbox := s.inbox.tail }, ?_, rfl, rfl⟩⟩
  · have hturn : s.inbox.head?.getD .mainTurn = .mainTurn := by rcases hm with hm | hm <;> rw [hm] <;> rfl
    rw [step_eq_eventStep hok, hturn]
    simp [eventStep, mainStep, hq]
  · obtain hmoves | ⟨hhead, -⟩ := step_moves h
    · cases hmoves with
      | waits => rfl
      | main hl => exact absurd (hq.symm.trans hl.1) nofun
      | receives b =>
        obtain ⟨-, hpush⟩ | ⟨-, hpush⟩ := pushBytes_cases b { s with inbox := s.inbox.tail } <;> rw [hpush]
    · exact absurd hhead hreset
  · rw [step_eq_eventStep hok, hr]
    rfl

/-! ## Two runs of a rule -/

/-- `s` with every transaction answered. -/
def allAnswered (s : State) : State := { s with silent := [] }

@[simp] theorem allAnswered_cfg (s : State) : (allAnswered s).cfg = s.cfg := rfl
@[simp] theorem allAnswered_rxq (s : State) : (allAnswered s).rxq = s.rxq := rfl
@[simp] theorem allAnswered_ovf (s : State) : (allAnswered s).ovf = s.ovf := rfl
@[simp] theorem allAnswered_dstate (s : State) : (allAnswered s).dstate = s.dstate := rfl
@[simp] theorem allAnswered_fbuf (s : State) : (allAnswered s).fbuf = s.fbuf := rfl
@[simp] theorem allAnswered_mode (s : State) : (allAnswered s).mode = s.mode := rfl
@[simp] theorem allAnswered_infl (s : State) : (allAnswered s).infl = s.infl := rfl
@[simp] theorem allAnswered_rs (s : State) : (allAnswered s).rs = s.rs := rfl
@[simp] theorem nextAnswer_allAnswered (s : State) : nextAnswer (allAnswered s) = nextAnswer s := rfl
@[simp] theorem portSilent_allAnswered (s : State) : portSilent (allAnswered s) = false := rfl
@[simp] theorem dataChecks_allAnswered (kind : SessionKind) (x : Word) (p : List Byte) (s : State) :
    dataChecks kind x p (allAnswered s) = dataChecks kind x p s := rfl

/-- On the way from `s` to `v` no wait, no other mode and no fatal event came. -/
structure SameCourse (s v : State) : Prop where
  silent : v.silent = s.silent
  mode : v.mode = s.mode
  rs : v.rs = s.rs
  fatal : v.fatal = s.fatal
  waiting : v.waiting = s.waiting

/-- A rule begun in `s` ended in `t`, and in `u` where every transaction is answered. If MAIN waits in `t`, it does so
for the first transaction that is listed, nothing came after it, and what came before came in the other run too. -/
structure CutOff (s t u : State) : Prop where
  waiting : u.waiting = none
  trace : s.trace <+: u.trace
  held : ∀ q, t.waiting = some q → ∃ before, t.trace = s.trace ++ before ++ [.unanswered q]
    ∧ (∀ e ∈ before, e.isTransaction = true) ∧ s.portsAnswer before.length
    ∧ s.trace.length + before.length ∈ s.silent ∧ t.mode = s.mode ∧ t.rs = s.rs ∧ t.fatal = s.fatal
    ∧ s.trace ++ before <+: u.trace

/-- A rule that ends without a wait in both runs. -/
theorem CutOff.of_waiting (ht : t.waiting = none) (hu : u.waiting = none) (htrace : s.trace <+: u.trace) :
    CutOff s t u := ⟨hu, htrace, fun q hq => by rw [ht] at hq; cases hq⟩

/-- What a rule changes between its transactions is no matter. -/
theorem CutOff.of_sameCourse (h : CutOff v t u) (hv : SameCourse s v) (htrace : v.trace = s.trace) : CutOff s t u where
  waiting := h.waiting
  trace := htrace ▸ h.trace
  held q hq := by
    obtain ⟨before, ht, htrans, hports, hsilent, hmode, hrs, hfatal, hbefore⟩ := h.held q hq
    rw [htrace] at ht hbefore hsilent
    exact ⟨before, ht, htrans, portsAnswer_of_append (es := []) hports (by simp [htrace]) hv.silent.symm (by simp),
      hv.silent ▸ hsilent, hmode.trans hv.mode, hrs.trans hv.rs, hfatal.trans hv.fatal, hbefore⟩

/-- The next transaction is listed: MAIN waits for it, and the other run goes on from there. -/
theorem cutOff_unanswered (hsilent : portSilent s = true) (q : PortRequest) (hu : u.waiting = none)
    (htrace : s.trace <+: u.trace) : CutOff s (unanswered q s) u := by
  refine ⟨hu, htrace, fun q' hq' => ?_⟩
  cases hq'
  exact ⟨[], by simp, nofun, fun j hj => absurd hj (Nat.not_lt_zero j), by simpa [portSilent] using hsilent, rfl, rfl,
    rfl, by simpa using htrace⟩

/-- One transaction: the rule waits for it, or goes on with its event. -/
theorem CutOff.transaction {e : PortEvent} (q : PortRequest) (he : e.isTransaction = true) (hv : SameCourse s v)
    (htrace : v.trace = s.trace ++ [e]) (h : CutOff v t u) :
    CutOff s (if portSilent s then unanswered q s else t)
      (if portSilent (allAnswered s) then unanswered q (allAnswered s) else u) := by
  have hprefix : s.trace <+: u.trace := (htrace ▸ List.prefix_append ..).trans h.trace
  rw [portSilent_allAnswered, if_neg Bool.false_ne_true]
  split
  · exact cutOff_unanswered ‹_› q h.waiting hprefix
  · rename_i hloud
    refine ⟨h.waiting, hprefix, fun q' hq' => ?_⟩
    obtain ⟨before, ht, htrans, hports, hsilent, hmode, hrs, hfatal, hbefore⟩ := h.held q' hq'
    rw [htrace, List.append_assoc, List.append_assoc] at ht
    rw [htrace, List.append_assoc] at hbefore
    rw [htrace, hv.silent, List.length_append, List.length_singleton] at hsilent
    refine ⟨e :: before, by rw [ht, List.append_assoc]; rfl, ?_, fun j hj => ?_, ?_, hmode.trans hv.mode,
      hrs.trans hv.rs, hfatal.trans hv.fatal, hbefore⟩
    · simpa [he] using htrans
    · cases j with
      | zero => simpa [portSilent] using hloud
      | succ j =>
        have := hports j (by simpa using hj)
        rw [htrace, hv.silent, List.length_append, List.length_singleton] at this
        rwa [← Nat.add_assoc, Nat.add_right_comm]
    · rwa [List.length_cons, ← Nat.add_assoc, Nat.add_right_comm]

theorem Answered.sameCourse {q : PortRequest} (h : Answered q s v) : SameCourse s v := by
  cases h <;> exact ⟨rfl, rfl, rfl, rfl, rfl⟩

theorem cutOff_raiseFatal (hw : s.waiting = none) (c : FatalCause) :
    CutOff s (raiseFatal c s) (raiseFatal c (allAnswered s)) :=
  .of_waiting hw hw (List.prefix_append ..)

theorem cutOff_self (hw : s.waiting = none) : CutOff s s (allAnswered s) := .of_waiting hw hw List.prefix_rfl

theorem CutOff.ite {c c' : Prop} [Decidable c] [Decidable c'] (hc : c ↔ c') {t' u' : State}
    (ht : c → CutOff s t u) (he : ¬c → CutOff s t' u') :
    CutOff s (if c then t else t') (if c' then u else u') := by
  by_cases h : c
  · rw [if_pos h, if_pos (hc.mp h)]; exact ht h
  · rw [if_neg h, if_neg fun h' => h (hc.mpr h')]; exact he h

/-! ## The ports -/

/-- A rule may do `f` and go on: where what follows is cut off, so is the whole. -/
def Obeys {α : Type} (f : State → PortResult α) : Prop :=
  ∀ (s : State) (k k' : α → State → State), s.waiting = none →
    (∀ a v, SameCourse s v → CutOff v (k a v) (k' a (allAnswered v))) →
    CutOff s ((f s).andThen k) ((f (allAnswered s)).andThen k')

theorem SameCourse.refl (s : State) : SameCourse s s := ⟨rfl, rfl, rfl, rfl, rfl⟩

theorem SameCourse.trans (h : SameCourse s u) (h' : SameCourse u v) : SameCourse s v :=
  ⟨h'.silent.trans h.silent, h'.mode.trans h.mode, h'.rs.trans h.rs, h'.fatal.trans h.fatal,
    h'.waiting.trans h.waiting⟩

theorem obeys_ok {α : Type} (a : α) : Obeys fun s => .ok a s := fun s _ _ _ hk => hk a s (.refl s)

theorem obeys_if {P : Prop} [Decidable P] {α : Type} {f g : State → PortResult α} (hf : Obeys f) (hg : Obeys g) :
    Obeys fun s => if P then f s else g s := by
  split
  · exact hf
  · exact hg

theorem Obeys.bind {α β : Type} {f : State → PortResult α} {g : α → State → PortResult β} (hf : Obeys f)
    (hg : ∀ a, Obeys (g a)) : Obeys fun s => (f s).bind g := fun s k k' hw hk => by
  rw [PortResult.bind_andThen, PortResult.bind_andThen]
  exact hf s _ _ hw fun a v hv => hg a v k k' (hv.waiting.trans hw) fun b w hvw => hk b w (hv.trans hvw)

/-- A FLASH transaction may also answer `Fault`, which ends both runs. -/
theorem CutOff.flash {q : PortRequest} {e : PortEvent} (hw : s.waiting = none) (he : e.isTransaction = true)
    (hv : Answered q s v) (h : CutOff v t u) :
    CutOff s (if portSilent s then unanswered q s
        else if nextAnswer s = .fault then raiseFatal .flashFault (record e (drawn s)) else t)
      (if portSilent (allAnswered s) then unanswered q (allAnswered s)
        else if nextAnswer (allAnswered s) = .fault then
          raiseFatal .flashFault (record e (drawn (allAnswered s))) else u) := by
  rw [nextAnswer_allAnswered]
  by_cases hfault : nextAnswer s = .fault
  · rw [if_pos hfault, if_pos hfault]
    exact .transaction q he (v := record e (drawn s)) ⟨rfl, rfl, rfl, rfl, rfl⟩ rfl
      (cutOff_raiseFatal (s := record e (drawn s)) hw .flashFault)
  · rw [if_neg hfault, if_neg hfault]
    obtain ⟨e', htrace, he', -⟩ := hv.event
    exact .transaction q he' hv.sameCourse htrace h

/-- A transaction on a port without faults. -/
theorem CutOff.port {q : PortRequest} (hv : Answered q s v) (h : CutOff v t u) :
    CutOff s (if portSilent s then unanswered q s else t)
      (if portSilent (allAnswered s) then unanswered q (allAnswered s) else u) := by
  obtain ⟨e, htrace, he, -⟩ := hv.event
  exact .transaction q he hv.sameCourse htrace h

theorem flashErase_obeys (a n : Nat) : Obeys (flashErase a n) := fun s k k' hw hk => by
  have hv := Answered.flashErase a n s
  rw [flashErase_andThen, flashErase_andThen]
  exact .flash hw rfl hv (hk () _ hv.sameCourse)

theorem flashEraseChip_obeys : Obeys flashEraseChip := fun s k k' hw hk => by
  have hv := Answered.flashEraseChip s
  rw [flashEraseChip_andThen, flashEraseChip_andThen]
  exact .flash hw rfl hv (hk () _ hv.sameCourse)

theorem flashWrite_obeys (a : Nat) (b : List Byte) : Obeys (flashWrite a b) := fun s k k' hw hk => by
  have hv := Answered.flashWrite a b s
  rw [flashWrite_andThen, flashWrite_andThen]
  exact .flash hw rfl hv (hk () _ hv.sameCourse)

theorem flashRead_obeys (a n : Nat) : Obeys (flashRead a n) := fun s k k' hw hk => by
  have hv := Answered.flashRead a (answerBytes_length s a n (nextAnswer s)) s
  rw [flashRead_andThen, flashRead_andThen]
  exact .flash hw rfl hv (hk _ _ hv.sameCourse)

theorem memWrite_obeys (a : Nat) (b : List Byte) : Obeys (memWrite a b) := fun s k k' _ hk => by
  have hv := Answered.memWrite a b s
  rw [memWrite_andThen, memWrite_andThen]
  exact .port hv (hk () _ hv.sameCourse)

theorem regRead_obeys (a : Nat) : Obeys (regRead a) := fun s k k' _ hk => by
  have hv := Answered.regRead a (answerWord s a (nextAnswer s)) s
  rw [regRead_andThen, regRead_andThen]
  exact .port hv (hk _ _ hv.sameCourse)

theorem regWrite_obeys (a x : Word) : Obeys (regWrite a.toNat x) := fun s k k' _ hk => by
  have hv := Answered.regWrite a x s
  rw [regWrite_andThen, regWrite_andThen]
  exact .port hv (hk () _ hv.sameCourse)

theorem delay_obeys (us : Word) : Obeys (delay us) := fun s k k' _ hk => by
  have hv := Answered.delay us s
  rw [delay_andThen, delay_andThen]
  exact .port hv (hk () _ hv.sameCourse)

/-! ## Frames -/

/-- What follows the frame of a rule asks nothing of a port. -/
def Quiet (f : State → State) : Prop := ∀ w, (f w).waiting = w.waiting ∧ w.trace <+: (f w).trace

theorem quiet_id : Quiet fun w => w := fun _ => ⟨rfl, List.prefix_rfl⟩

theorem emit_cutOff (hw : s.waiting = none) (p : List Byte) {k k' : Unit → State → State} (hk : Quiet (k ()))
    (hk' : Quiet (k' ())) : CutOff s ((emit p s).andThen k) ((emit p (allAnswered s)).andThen k') := by
  obtain ⟨hwait, -⟩ := hk (s.sending p)
  obtain ⟨hwait', htrace'⟩ := hk' ((allAnswered s).sending p)
  have hprefix : s.trace <+: (k' () ((allAnswered s).sending p)).trace := (List.prefix_append ..).trans htrace'
  rw [emit_andThen, emit_andThen, portSilent_allAnswered, if_neg Bool.false_ne_true]
  split
  · exact cutOff_unanswered ‹_› _ (hwait'.trans hw) hprefix
  · exact .of_waiting (hwait.trans hw) (hwait'.trans hw) hprefix

theorem ack_cutOff (hw : s.waiting = none) (c : Opcode) : CutOff s (ack c s) (ack c (allAnswered s)) :=
  emit_cutOff (k := fun _ w => w) (k' := fun _ w => w) hw _ quiet_id quiet_id

theorem raiseFail_cutOff (hw : s.waiting = none) (op : Byte) (f : Failure) :
    CutOff s (raiseFail op f s) (raiseFail op f (allAnswered s)) :=
  emit_cutOff (k := fun _ w => w) (k' := fun _ w => w) hw _ quiet_id quiet_id

theorem fail_cutOff (hw : s.waiting = none) (c : Opcode) (f : Failure) :
    CutOff s (fail c f s) (fail c f (allAnswered s)) :=
  raiseFail_cutOff hw _ f

/-- A rule that goes on after the session was changed. -/
theorem CutOff.of_session {q : Session} {infl : Option Inflate} (h : CutOff { s with sess := q, infl := infl } t u) :
    CutOff s t u :=
  h.of_sameCourse ⟨rfl, rfl, rfl, rfl, rfl⟩ rfl

theorem ack_session_cutOff (hw : s.waiting = none) (c : Opcode) (q : Session) (infl : Option Inflate) :
    CutOff s (ack c { s with sess := q, infl := infl }) (ack c (allAnswered { s with sess := q, infl := infl })) :=
  (ack_cutOff (s := { s with sess := q, infl := infl }) hw c).of_session

/-! ## The session commands -/

theorem beginFlash_cutOff (hw : s.waiting = none) (c : Opcode) (kind : SessionKind) (infl : Option Inflate)
    (p : List Byte) : CutOff s (beginFlash c kind infl p s) (beginFlash c kind infl p (allAnswered s)) := by
  suffices h : CutOff (discardSession s) (beginFlash c kind infl p s) (beginFlash c kind infl p (allAnswered s)) from
    .of_session h
  unfold beginFlash
  simp only [discardSession_cfg, allAnswered_cfg]
  cases beginChecks s.cfg (inFlash s.cfg) p with
  | some f => exact fail_cutOff (s := discardSession s) hw c f
  | none =>
    exact obeys_if (flashErase_obeys _ _) (obeys_ok ()) (discardSession s) _ _ hw fun _ v hv =>
      ack_session_cutOff (hv.waiting.trans hw) c _ _

theorem execMemBegin_cutOff (hw : s.waiting = none) (x : Word) (p : List Byte) :
    ∃ t u, execMemBegin x p s = .next t ∧ execMemBegin x p (allAnswered s) = .next u ∧ CutOff s t u := by
  refine ⟨_, _, rfl, rfl, .of_session (q := (discardSession s).sess) (infl := none) ?_⟩
  simp only [discardSession_cfg, allAnswered_cfg]
  cases beginChecks s.cfg (ramOk s.cfg) p with
  | some f => exact fail_cutOff (s := discardSession s) hw _ f
  | none => exact ack_session_cutOff (s := discardSession s) hw _ _ _

/-- The write of FLASH_DATA and MEM_DATA, and what follows it. -/
theorem dataWrite_cutOff (hw : s.waiting = none) (c : Opcode) {P : Prop} [Decidable P] {f : State → PortResult Unit}
    (hf : Obeys f) (n : Nat) (d : List Byte) :
    CutOff s ((if P then f s else .ok () s).andThen fun _ w => ack c (accept n d w))
      ((if P then f (allAnswered s) else .ok () (allAnswered s)).andThen fun _ w => ack c (accept n d w)) :=
  obeys_if hf (obeys_ok ()) s _ _ hw fun _ _ hv => ack_session_cutOff (hv.waiting.trans hw) c _ _

theorem execFlashData_cutOff (hw : s.waiting = none) (x : Word) (p : List Byte) :
    ∃ t u, execFlashData x p s = .next t ∧ execFlashData x p (allAnswered s) = .next u ∧ CutOff s t u := by
  refine ⟨_, _, rfl, rfl, ?_⟩
  rw [dataChecks_allAnswered]
  cases dataChecks .flash x p s with
  | some f => exact fail_cutOff hw _ f
  | none =>
    exact .ite Iff.rfl (fun _ => cutOff_raiseFatal hw _) fun _ => dataWrite_cutOff hw _ (flashWrite_obeys _ _) _ _

theorem execMemData_cutOff (hw : s.waiting = none) (x : Word) (p : List Byte) :
    ∃ t u, execMemData x p s = .next t ∧ execMemData x p (allAnswered s) = .next u ∧ CutOff s t u := by
  refine ⟨_, _, rfl, rfl, ?_⟩
  rw [dataChecks_allAnswered]
  cases dataChecks .mem x p s with
  | some f => exact fail_cutOff hw _ f
  | none =>
    exact .ite Iff.rfl (fun _ => cutOff_raiseFatal hw _) fun _ => dataWrite_cutOff hw _ (memWrite_obeys _ _) _ _

theorem writeInflated_cutOff (hw : s.waiting = none) (d out : List Byte) (st : Inflate) :
    CutOff s (writeInflated d out st s) (writeInflated d out st (allAnswered s)) := by
  unfold writeInflated
  refine .ite Iff.rfl (fun _ => ?_) fun _ => ?_
  · exact obeys_if (flashWrite_obeys _ _) (obeys_ok ()) s _ _ hw fun _ v hv =>
      .of_session (fail_cutOff (s := discardSession v) (hv.waiting.trans hw) _ _)
  · refine obeys_if (flashWrite_obeys _ _) (obeys_ok ()) s _ _ hw fun _ v hv => ?_
    split
    · exact .of_session (fail_cutOff (s := discardSession (advanceWritten out.length v)) (hv.waiting.trans hw) _ _)
    · exact ack_session_cutOff (hv.waiting.trans hw) _ _ _

theorem execFlashDeflData_cutOff (hw : s.waiting = none) (x : Word) (p : List Byte) :
    ∃ t u, execFlashDeflData x p s = .next t ∧ execFlashDeflData x p (allAnswered s) = .next u ∧ CutOff s t u := by
  refine ⟨_, _, rfl, rfl, ?_⟩
  rw [dataChecks_allAnswered]
  cases dataChecks .defl x p s with
  | some f => exact fail_cutOff hw _ f
  | none =>
    refine .ite Iff.rfl (fun _ => cutOff_raiseFatal hw _) fun _ => ?_
    rw [allAnswered_infl]
    cases s.infl with
    | none => exact cutOff_raiseFatal hw _
    | some st => exact .of_session (q := s.sess) (writeInflated_cutOff (s := { s with infl := some _ }) hw _ _ _)

theorem endFlash_cutOff (hw : s.waiting = none) (c : Opcode) (kind : SessionKind) (p : List Byte) :
    CutOff s (endFlash c kind p s) (endFlash c kind p (allAnswered s)) := by
  have hquiet : Quiet fun w => if wordAt p 0 = 0 then reboot w else w := fun w => by
    dsimp only
    split
    · exact ⟨rfl, List.prefix_append ..⟩
    · exact quiet_id w
  exact .ite Iff.rfl (fun _ => fail_cutOff hw _ _) fun _ => .ite Iff.rfl (fun _ => fail_cutOff hw _ _) fun _ =>
    .of_session (emit_cutOff (s := discardSession s) hw _ hquiet hquiet)

theorem endMem_cutOff (hw : s.waiting = none) (p : List Byte) :
    CutOff s (endMem p s) (endMem p (allAnswered s)) := by
  have hquiet : Quiet fun w => if wordAt p 0 = 0 then finish (wordAt p 1) w else w := fun w => by
    dsimp only
    split
    · exact ⟨rfl, List.prefix_append ..⟩
    · exact quiet_id w
  exact .ite Iff.rfl (fun _ => fail_cutOff hw _ _) fun _ => .ite Iff.rfl (fun _ => fail_cutOff hw _ _) fun _ =>
    .of_session (emit_cutOff (s := discardSession s) hw _ hquiet hquiet)

/-! ## The single-shot commands -/

theorem digestFlash_obeys (fuel a left : Nat) (c : Md5Context) : Obeys (digestFlash fuel a left c) := by
  induction fuel generalizing a left c with
  | zero => exact obeys_ok c
  | succ fuel ih =>
    intro s k k' hw hk
    unfold digestFlash
    split
    · exact obeys_ok c s k k' hw hk
    · rw [PortResult.bind_andThen, PortResult.bind_andThen]
      exact flashRead_obeys a _ s _ _ hw fun b v hv =>
        ih _ _ _ v k k' (hv.waiting.trans hw) fun x w hvw => hk x w (hv.trans hvw)

theorem writeEntry_obeys (e : RegEntry) : Obeys (writeEntry e) :=
  .bind (obeys_if (regWrite_obeys e.addr e.value) (.bind (regRead_obeys _) fun _ => regWrite_obeys _ _))
    fun _ => obeys_if (obeys_ok ()) (delay_obeys _)

theorem writeEntries_obeys (es : List RegEntry) : Obeys (writeEntries es) := by
  induction es with
  | nil => exact obeys_ok ()
  | cons e es ih => exact (writeEntry_obeys e).bind fun _ => ih

theorem execReadFlash_cutOff (hw : s.waiting = none) (x : Word) (p : List Byte) :
    ∃ t u, execReadFlash x p s = .next t ∧ execReadFlash x p (allAnswered s) = .next u ∧ CutOff s t u := by
  have hquiet : Quiet fun w => { w with rs := some (openStream p), mode := .stream } := fun _ => ⟨rfl, List.prefix_rfl⟩
  exact ⟨_, _, rfl, rfl, .ite Iff.rfl (fun _ => fail_cutOff hw _ _) fun _ =>
    .ite Iff.rfl (fun _ => fail_cutOff hw _ _) fun _ => .ite Iff.rfl (fun _ => fail_cutOff hw _ _) fun _ =>
    .ite Iff.rfl (fun _ => fail_cutOff hw _ _) fun _ => emit_cutOff hw _ hquiet hquiet⟩

theorem execEraseFlash_cutOff (hw : s.waiting = none) (x : Word) (p : List Byte) :
    ∃ t u, execEraseFlash x p s = .next t ∧ execEraseFlash x p (allAnswered s) = .next u ∧ CutOff s t u :=
  ⟨_, _, rfl, rfl, .ite Iff.rfl (fun _ => fail_cutOff hw _ _) fun _ =>
    flashEraseChip_obeys s _ _ hw fun _ _ hv => ack_cutOff (hv.waiting.trans hw) _⟩

theorem execEraseRegion_cutOff (hw : s.waiting = none) (x : Word) (p : List Byte) :
    ∃ t u, execEraseRegion x p s = .next t ∧ execEraseRegion x p (allAnswered s) = .next u ∧ CutOff s t u :=
  ⟨_, _, rfl, rfl, .ite Iff.rfl (fun _ => fail_cutOff hw _ _) fun _ =>
    .ite Iff.rfl (fun _ => fail_cutOff hw _ _) fun _ => .ite Iff.rfl (fun _ => fail_cutOff hw _ _) fun _ =>
    obeys_if (flashErase_obeys _ _) (obeys_ok ()) s _ _ hw fun _ _ hv => ack_cutOff (hv.waiting.trans hw) _⟩

theorem execSpiFlashMd5_cutOff (hw : s.waiting = none) (x : Word) (p : List Byte) :
    ∃ t u, execSpiFlashMd5 x p s = .next t ∧ execSpiFlashMd5 x p (allAnswered s) = .next u ∧ CutOff s t u :=
  ⟨_, _, rfl, rfl, .ite Iff.rfl (fun _ => fail_cutOff hw _ _) fun _ =>
    .ite Iff.rfl (fun _ => fail_cutOff hw _ _) fun _ => digestFlash_obeys _ _ _ _ s _ _ hw fun _ _ hv =>
    emit_cutOff (hv.waiting.trans hw) _ quiet_id quiet_id⟩

theorem execReadReg_cutOff (hw : s.waiting = none) (x : Word) (p : List Byte) :
    ∃ t u, execReadReg x p s = .next t ∧ execReadReg x p (allAnswered s) = .next u ∧ CutOff s t u :=
  ⟨_, _, rfl, rfl, .ite Iff.rfl (fun _ => fail_cutOff hw _ _) fun _ =>
    .ite Iff.rfl (fun _ => fail_cutOff hw _ _) fun _ => regRead_obeys _ s _ _ hw fun _ _ hv =>
    emit_cutOff (hv.waiting.trans hw) _ quiet_id quiet_id⟩

theorem execWriteReg_cutOff (hw : s.waiting = none) (x : Word) (p : List Byte) :
    ∃ t u, execWriteReg x p s = .next t ∧ execWriteReg x p (allAnswered s) = .next u ∧ CutOff s t u :=
  ⟨_, _, rfl, rfl, .ite Iff.rfl (fun _ => fail_cutOff hw _ _) fun _ =>
    .ite Iff.rfl (fun _ => fail_cutOff hw _ _) fun _ => writeEntries_obeys _ s _ _ hw fun _ _ hv =>
    ack_cutOff (hv.waiting.trans hw) _⟩

theorem execChangeBaudrate_cutOff (hw : s.waiting = none) (x : Word) (p : List Byte) :
    ∃ t u, execChangeBaudrate x p s = .next t ∧ execChangeBaudrate x p (allAnswered s) = .next u ∧ CutOff s t u := by
  have hquiet : Quiet (record (.baud (wordAt p 0))) := fun _ => ⟨rfl, List.prefix_append ..⟩
  exact ⟨_, _, rfl, rfl, .ite Iff.rfl (fun _ => fail_cutOff hw _ _) fun _ =>
    .ite Iff.rfl (fun _ => fail_cutOff hw _ _) fun _ => .ite Iff.rfl (fun _ => fail_cutOff hw _ _) fun _ =>
    emit_cutOff hw _ hquiet hquiet⟩

theorem execSync_cutOff (hw : s.waiting = none) :
    CutOff s (ack .sync { discardSession s with fbuf := [] })
      (ack .sync { discardSession (allAnswered s) with fbuf := [] }) :=
  (ack_cutOff (s := { discardSession s with fbuf := [] }) hw _).of_sameCourse ⟨rfl, rfl, rfl, rfl, rfl⟩ rfl

theorem exec_cutOff (hw : s.waiting = none) (i : Instr) :
    ∃ t u, exec i s = .next t ∧ exec i (allAnswered s) = .next u ∧ CutOff s t u := by
  cases i with
  | sync x p => exact ⟨_, _, rfl, rfl, execSync_cutOff hw⟩
  | flashBegin x p => exact ⟨_, _, rfl, rfl, beginFlash_cutOff hw _ _ _ p⟩
  | flashData x p => exact execFlashData_cutOff hw x p
  | flashEnd x p => exact ⟨_, _, rfl, rfl, endFlash_cutOff hw _ _ p⟩
  | memBegin x p => exact execMemBegin_cutOff hw x p
  | memData x p => exact execMemData_cutOff hw x p
  | memEnd x p => exact ⟨_, _, rfl, rfl, endMem_cutOff hw p⟩
  | memFinish x p => exact ⟨_, _, rfl, rfl, endMem_cutOff hw p⟩
  | flashDeflBegin x p => exact ⟨_, _, rfl, rfl, beginFlash_cutOff hw _ _ _ p⟩
  | flashDeflData x p => exact execFlashDeflData_cutOff hw x p
  | flashDeflEnd x p => exact ⟨_, _, rfl, rfl, endFlash_cutOff hw _ _ p⟩
  | readFlash x p => exact execReadFlash_cutOff hw x p
  | eraseFlash x p => exact execEraseFlash_cutOff hw x p
  | eraseRegion x p => exact execEraseRegion_cutOff hw x p
  | spiFlashMd5 x p => exact execSpiFlashMd5_cutOff hw x p
  | readReg x p => exact execReadReg_cutOff hw x p
  | writeReg x p => exact execWriteReg_cutOff hw x p
  | changeBaudrate x p => exact execChangeBaudrate_cutOff hw x p

/-! ## MAIN -/

/-- The two runs of a part of MAIN's turn: where the one has a next state, so has the other. -/
def RunsCutOff (s : State) (o o' : Host.Outcome State Fault Refusal) : Prop :=
  ∀ t, o = .next t → ∃ u, o' = .next u ∧ CutOff s t u

theorem CutOff.runs (h : CutOff s t u) : RunsCutOff s (.next t) (.next u) := fun _ ht => by
  cases ht
  exact ⟨u, rfl, h⟩

theorem commandFrame_cutOff (hw : s.waiting = none) (f : List Byte) :
    RunsCutOff s (commandFrame f s) (commandFrame f (allAnswered s)) := by
  unfold commandFrame
  rw [allAnswered_cfg]
  cases decode s.cfg.opcodes f with
  | ok i =>
    obtain ⟨t, u, ht, hu, h⟩ := exec_cutOff hw i
    dsimp only
    rw [ht, hu]
    exact h.runs
  | error e =>
    refine CutOff.runs ?_
    cases e with
    | empty => exact cutOff_self hw
    | _ => exact raiseFail_cutOff hw _ _

theorem streamEnd_cutOff (hw : s.waiting = none) (r : ReadStream) :
    CutOff s (streamEnd r s) (streamEnd r (allAnswered s)) := by
  have hquiet : Quiet fun w => { w with rs := none, mode := .cmd } := fun _ => ⟨rfl, List.prefix_rfl⟩
  exact emit_cutOff hw _ hquiet hquiet

theorem ackFrame_cutOff (hw : s.waiting = none) (f : List Byte) (r : ReadStream) :
    CutOff s (ackFrame f r s) (ackFrame f r (allAnswered s)) :=
  .ite Iff.rfl (fun _ => cutOff_self hw) fun _ =>
    .ite Iff.rfl (fun _ => .of_waiting hw hw List.prefix_rfl) fun _ => streamEnd_cutOff hw r

theorem deliver_cutOff (hw : s.waiting = none) (f : List Byte) :
    RunsCutOff s (deliver f s) (deliver f (allAnswered s)) := by
  unfold deliver
  rw [allAnswered_mode, allAnswered_rs]
  cases s.mode with
  | stream =>
    cases s.rs with
    | some r => exact (ackFrame_cutOff hw f r).runs
    | none => exact (cutOff_raiseFatal hw _).runs
  | _ => exact commandFrame_cutOff hw f

/-- A decoder byte step takes its byte before it handles the frame. -/
theorem byteStep_cutOff (hw : s.waiting = none) : RunsCutOff s (byteStep s) (byteStep (allAnswered s)) := by
  unfold byteStep
  rw [allAnswered_ovf, allAnswered_rxq]
  split
  · exact (cutOff_raiseFatal hw _).runs
  · cases s.rxq with
    | nil => exact (cutOff_self hw).runs
    | cons x rest =>
      simp only [allAnswered_cfg, allAnswered_dstate, allAnswered_fbuf]
      generalize slipByte s.cfg.frameCap s.dstate s.fbuf x = q
      cases q.delivered with
      | none =>
        have htaken : CutOff s { s with rxq := rest, dstate := q.dstate, fbuf := q.fbuf }
            { allAnswered s with rxq := rest, dstate := q.dstate, fbuf := q.fbuf } :=
          .of_waiting hw hw List.prefix_rfl
        exact htaken.runs
      | some f =>
        intro t ht
        obtain ⟨u, hu, h⟩ := deliver_cutOff (s := { s with rxq := rest, dstate := q.dstate, fbuf := q.fbuf }) hw f t ht
        exact ⟨u, hu, h.of_sameCourse ⟨rfl, rfl, rfl, rfl, rfl⟩ rfl⟩

theorem streamSend_cutOff (hw : s.waiting = none) (r : ReadStream) :
    CutOff s (streamSend r s) (streamSend r (allAnswered s)) := by
  refine flashRead_obeys _ _ s _ _ hw fun b v hv => ?_
  have hquiet : Quiet fun w => { w with rs := some { r with
      md5 := md5Update r.md5 b, sent := r.sent + BitVec.ofNat 32 (min r.pkt.toNat (r.len.toNat - r.sent.toNat)) } } :=
    fun _ => ⟨rfl, List.prefix_rfl⟩
  exact emit_cutOff (hv.waiting.trans hw) b hquiet hquiet

theorem streamStep_cutOff (hw : s.waiting = none) : RunsCutOff s (streamStep s) (streamStep (allAnswered s)) := by
  unfold streamStep
  rw [allAnswered_rs, allAnswered_cfg]
  cases s.rs with
  | none => exact (cutOff_raiseFatal hw _).runs
  | some r =>
    dsimp only
    split
    · exact (cutOff_raiseFatal hw _).runs
    split
    · exact (streamEnd_cutOff hw r).runs
    split
    · exact (streamSend_cutOff hw r).runs
    · exact byteStep_cutOff hw

theorem modeStep_cutOff (hw : s.waiting = none) : RunsCutOff s (modeStep s) (modeStep (allAnswered s)) := by
  have hquiet : Quiet fun w => { w with mode := .cmd } := fun _ => ⟨rfl, List.prefix_rfl⟩
  unfold modeStep
  rw [allAnswered_mode]
  cases s.mode with
  | boot => exact (emit_cutOff hw _ hquiet hquiet).runs
  | cmd => exact byteStep_cutOff hw
  | stream => exact streamStep_cutOff hw
  | _ => exact fun _ ht => nomatch ht

/-- Settles O30: only MAIN's turn comes to wait, and its rule is cut off at the first transaction that is listed. -/
theorem unansweredRequestCutsTheStepOff : Obligations.UnansweredRequestCutsTheStepOff := by
  unfold Obligations.UnansweredRequestCutsTheStepOff
  intro s t q hw h hq
  obtain ⟨hok, ⟨hm, hmain⟩ | ⟨b, packet, es, -, -, rfl⟩ | ⟨es, -, rfl⟩⟩ := step_next_cases h
  · have hnext : s.mainNext := ⟨hm, hw⟩
    rw [step_main hok hnext] at h
    obtain ⟨u, hu, hcut⟩ := modeStep_cutOff (s := { s with inbox := s.inbox.tail }) hw t h
    obtain ⟨before, htrace, htrans, hports, hsilent, hmode, hrs, hfatal, hbefore⟩ := hcut.held q hq
    exact ⟨before, htrace, htrans, hports, hsilent, hmode, hrs, hfatal, u,
      (step_main (s := allAnswered s) hok hnext).trans hu, hcut.waiting, hbefore⟩
  · have hpush : (pushBytes b { s with inbox := es }).waiting = none := by
      obtain ⟨-, hpush⟩ | ⟨-, hpush⟩ := pushBytes_cases b { s with inbox := es } <;> rw [hpush] <;> exact hw
    exact absurd (hpush.symm.trans hq) nofun
  · exact absurd hq nofun

end Sys2Proof.Machine
end

section
/-! A request packet read both ways (R83, R84, R96): the fields of a header give its bytes back, and opcode, V and
payload give the request back. -/

namespace Sys2Proof.Machine

/-! ## Fields and their bytes -/

/-- A number joined from bytes is written as those bytes: the converse of `put16_join`. -/
theorem put16_append (a b : Byte) : put16 (b ++ a) = [a, b] :=
  congrArg₂ (fun x y => [x, y]) BitVec.extractLsb'_append_eq_right BitVec.extractLsb'_append_eq_left

/-- The same for a word, the converse of `put32_join`. -/
theorem put32_append (a b c d : Byte) : put32 (d ++ c ++ b ++ a) = [a, b, c, d] := by
  simp [put32, BitVec.extractLsb'_append_eq_ite (v := 24), BitVec.extractLsb'_append_eq_ite (v := 16),
    BitVec.extractLsb'_append_eq_ite (v := 8)]

theorem put32_inj {v w : Word} : put32 v = put32 w ↔ v = w :=
  ⟨fun h => by rw [← le32_put32 v [], h, le32_put32], congrArg put32⟩

/-- A frame of at least eight bytes is the packet of its fields (R83). -/
theorem header_eq {f : List Byte} (h : 8 ≤ f.length) :
    [byteAt f 0, byteAt f 1] ++ put16 (le16 f 2) ++ put32 (le32 f 4) ++ f.drop 8 = f := by
  match f, h with
  | x0 :: x1 :: x2 :: x3 :: x4 :: x5 :: x6 :: x7 :: r, _ =>
    exact congrArg₂ (fun l v => [x0, x1] ++ l ++ v ++ r) (put16_append x2 x3) (put32_append x4 x5 x6 x7)

/-! ## The two rows of one opcode -/

/-- The decoder's test for MEM_FINISH is the one of well-formed requests (R92): the first word is 0 exactly when its
four bytes are. -/
theorem isFinish_eq_noExecZero (p : List Byte) : isFinish p = noExecZero p := by
  match p with
  | [] | [_] | [_, _] | [_, _, _] => simp [isFinish, noExecZero]
  | a :: b :: c :: d :: r =>
    have hword : wordAt (a :: b :: c :: d :: r) 0 = 0 ↔ [a, b, c, d] = [0, 0, 0, 0] := by
      rw [← put32_append a b c d]
      exact put32_inj.symm
    rw [Bool.eq_iff_iff]
    simpa [isFinish, noExecZero] using hword

/-! ## The request of an opcode, V and a payload -/

section
variable (c : Opcode) (v : Word) (p : List Byte)

/-- What a request was made from is read off it again. -/
theorem assemble_reads :
    (assemble c v p).opcode = c ∧ (assemble c v p).value = v ∧ (assemble c v p).payload = p := by
  cases c with
  | memEnd => unfold assemble; dsimp only; split <;> exact ⟨rfl, rfl, rfl⟩
  | _ => exact ⟨rfl, rfl, rfl⟩

/-- A payload that fits makes a well-formed request: the two rows of opcode 0x06 divide the payloads between them. -/
theorem assemble_wf : (assemble c v p).wf = payloadFits p := by
  cases c with
  | memEnd =>
    unfold assemble
    dsimp only
    rw [isFinish_eq_noExecZero]
    split <;> simp_all [Instr.wf]
  | _ => rfl

end

/-- A well-formed request is the one that its opcode, V and payload make. -/
theorem assemble_fields {i : Instr} (h : i.wf = true) : assemble i.opcode i.value i.payload = i := by
  cases i with
  | memEnd v p =>
    have hp : isFinish p = false := by simp_all [Instr.wf, isFinish_eq_noExecZero]
    exact if_neg (Bool.eq_false_iff.mp hp)
  | memFinish v p =>
    have hp : isFinish p = true := by simp_all [Instr.wf, isFinish_eq_noExecZero]
    exact if_pos hp
  | _ => rfl

/-! ## Packets -/

/-- Settles O1: the fields of the packet are read back one by one. -/
theorem decodeOfEncode : Obligations.DecodeOfEncode := by
  unfold Obligations.DecodeOfEncode
  intro m i hm hi
  obtain ⟨hlen, hdir, hop, hvalue, hpayload, hl⟩ := Laws.RequestHeader.of_header i m
  have hfind : m.find (byteAt (encode m i) 1) = some i.opcode := by rw [hop, find_code hm]
  rw [decode_of_fields (by omega) hdir (by rw [hlen, hl hi]) hfind, hvalue, hpayload, assemble_fields hi]

/-- Settles O2: what the decoder reads are all the bytes of the frame. -/
theorem encodeOfDecode : Obligations.EncodeOfDecode := by
  unfold Obligations.EncodeOfDecode
  intro m f i h
  obtain ⟨h8, hdir, hlen, c, hc, rfl⟩ := decode_ok h
  have hpayload : (f.drop 8).length = (le16 f 2).toNat := by rw [List.length_drop]; omega
  obtain ⟨hop, hvalue, hp⟩ := assemble_reads c (le32 f 4) (f.drop 8)
  refine ⟨?_, ?_⟩
  · rw [assemble_wf, payloadFits, hpayload]
    exact decide_eq_true (le16 f 2).isLt
  · rw [encode, hop, hvalue, hp, find_some hc, hpayload, BitVec.ofNat_toNat, BitVec.setWidth_eq, ← hdir,
      header_eq h8]

/-! ## Packets the spec writes out -/

/-- Settles O3: the decoder run on each packet, and on each opcode byte. -/
theorem decodeReadsWrittenPackets : Obligations.DecodeReadsWrittenPackets := by
  unfold Obligations.DecodeReadsWrittenPackets
  exact ⟨rfl, rfl, rfl, rfl, rfl, rfl, by decide +kernel⟩

end Sys2Proof.Machine
end

section
/-! The decoder byte step run along a string of bytes (R150, R159), and the frame of a request among them: opening
delimiter, escaped bytes, closing delimiter. -/

namespace Sys2Proof.Machine

variable {s : State} {d : DecoderState} {f r : List Byte}

/-! ## Runs -/

/-- A run goes on from where its first steps led. -/
theorem run_add_of_next {M : Host.Core} {k : Nat} {u v : M.State} (h : M.run k u = .next v) (n : Nat) :
    M.run (k + n) u = M.run n v := by
  induction k generalizing u with
  | zero => cases h; rw [Nat.zero_add]
  | succ k ih =>
    rw [Nat.succ_add, Host.Core.run]
    rw [Host.Core.run] at h
    split at h
    · exact ih h
    · cases h
    · cases h

theorem run_one (M : Host.Core) (u : M.State) : M.run 1 u = M.step u := by
  unfold Host.Core.run
  split <;> simp_all [Host.Core.run]

/-! ## One byte -/

/-- Mode CMD with nothing in MAIN's way: every step is a decoder byte step (R150). -/
structure State.Listens (s : State) : Prop where
  params : s.cfg.ok = true
  inbox : s.inbox = []
  waiting : s.waiting = none
  mode : s.mode = .cmd
  ovf : s.ovf = false

/-- `s` with this decoder state, this frame buffer and these bytes in the queue. -/
def State.decoding (s : State) (d : DecoderState) (f r : List Byte) : State :=
  { s with dstate := d, fbuf := f, rxq := r }

theorem State.decoding_self (s : State) : s.decoding s.dstate s.fbuf s.rxq = s := rfl

theorem State.Listens.decoding (hs : s.Listens) : (s.decoding d f r).Listens :=
  ⟨hs.params, hs.inbox, hs.waiting, hs.mode, hs.ovf⟩

theorem State.Listens.step_eq_byteStep (hs : s.Listens) : step s = byteStep s := by
  obtain ⟨hok, hinbox, hwaiting, hmode, -⟩ := hs
  have hturn : { s with inbox := s.inbox.tail } = s := by cases s; cases hinbox; rfl
  rw [step_main hok ⟨.inl (by rw [hinbox]; rfl), hwaiting⟩, hturn, modeStep, hmode]

/-- A step takes one byte: nothing more where it completes no frame, and else the frame it completes is handled
(R153, R159). -/
theorem State.Listens.step_decoding (hs : s.Listens) (x : Byte) :
    let q := slipByte s.cfg.frameCap d f x
    step (s.decoding d f (x :: r)) = q.delivered.elim (.next (s.decoding q.dstate q.fbuf r))
      fun g => commandFrame g (s.decoding q.dstate q.fbuf r) := by
  dsimp only
  rw [hs.decoding.step_eq_byteStep]
  simp only [byteStep, State.decoding, hs.ovf, Bool.false_eq_true, if_false]
  cases (slipByte s.cfg.frameCap d f x).delivered with
  | none => rfl
  | some g => simp only [deliver, hs.mode, Option.elim_some]

/-- An empty frame is ignored (R152, R180). -/
theorem commandFrame_nil (s : State) : commandFrame [] s = .next s := rfl

/-- A step at a byte that completes no frame, or an empty one, takes that byte and does nothing more. -/
theorem State.Listens.step_decoding_of_empty (hs : s.Listens) {x : Byte}
    (hx : ∀ g ∈ (slipByte s.cfg.frameCap d f x).delivered, g = []) :
    step (s.decoding d f (x :: r))
      = .next (s.decoding (slipByte s.cfg.frameCap d f x).dstate (slipByte s.cfg.frameCap d f x).fbuf r) := by
  rw [hs.step_decoding]
  cases hq : (slipByte s.cfg.frameCap d f x).delivered with
  | none => rfl
  | some g => rw [Option.elim_some, hx g hq, commandFrame_nil]

/-! ## Bytes in a row -/

/-- Along bytes that complete no frame but empty ones, MAIN does what the decoder alone does. -/
theorem State.Listens.run_slipDecode (hs : s.Listens) {b : List Byte}
    (hb : ∀ g ∈ (slipDecode s.cfg.frameCap d f b).2.2, g = []) :
    core.run b.length (s.decoding d f (b ++ r))
      = .next (s.decoding (slipDecode s.cfg.frameCap d f b).1 (slipDecode s.cfg.frameCap d f b).2.1 r) := by
  induction b generalizing d f with
  | nil => rfl
  | cons x b ih =>
    rw [slipDecode_cons] at hb ⊢
    simp only [List.forall_mem_append] at hb
    obtain ⟨hx, hb⟩ := hb
    have hstep := (run_one core _).trans (hs.step_decoding_of_empty (r := b ++ r) fun g hg =>
      hx g (Option.mem_toList.mpr hg))
    rw [List.length_cons, Nat.add_comm]
    exact (run_add_of_next hstep b.length).trans (ih hb)

/-! ## A frame -/

/-- The escaped bytes of a packet that fits fill the frame buffer with the packet (R162). -/
theorem slipDecode_flatMap_escape {cap : Nat} {p : List Byte} (h : f.length + p.length ≤ cap) :
    slipDecode cap .inFrame f (p.flatMap slipEscape) = (.inFrame, f ++ p, []) := by
  induction p generalizing f with
  | nil => simp [slipDecode]
  | cons x p ih =>
    rw [List.length_cons] at h
    rw [List.flatMap_cons, slipDecode_append, slipDecode_escape (by omega), ih (by simp; omega)]
    simp

/-- Before its closing delimiter, a frame of a packet that fits has the packet in the buffer, whether the opening
delimiter was awaited or closed an empty frame (R151, R152, R162). -/
theorem slipDecode_open {cap : Nat} {p : List Byte} (hd : d ≠ .escape) (h : p.length ≤ cap) :
    ∃ fs, slipDecode cap d [] (slipEnd :: p.flatMap slipEscape) = (.inFrame, p, fs) ∧ ∀ g ∈ fs, g = [] := by
  have hrest := slipDecode_flatMap_escape (f := []) (p := p) (cap := cap) (by simpa using h)
  cases d with
  | hunt => exact ⟨[], by simp [slipDecode_cons, slipByte, hrest], nofun⟩
  | inFrame => exact ⟨[[]], by simp [slipDecode_cons, slipByte, hrest], by simp⟩
  | escape => exact absurd rfl hd

/-- The bytes of a packet on the wire hand that packet to the command decoder (R153, R159, R162). -/
theorem State.Listens.run_slipEncode (hs : s.Listens) {p : List Byte} (hd : s.dstate ≠ .escape) (hf : s.fbuf = [])
    (hp : p.length ≤ s.cfg.frameCap) (hr : s.rxq = slipEncode p ++ r) :
    core.run (slipEncode p).length s = commandFrame p (s.decoding .inFrame [] r) := by
  obtain ⟨fs, hopen, hempty⟩ := slipDecode_open hd hp
  have hrun := hs.run_slipDecode (d := s.dstate) (f := []) (b := slipEnd :: p.flatMap slipEscape) (r := slipEnd :: r)
    (by rw [hopen]; exact hempty)
  have hstart : s.decoding s.dstate [] (slipEnd :: p.flatMap slipEscape ++ slipEnd :: r) = s := by
    rw [← hf, show slipEnd :: p.flatMap slipEscape ++ slipEnd :: r = s.rxq by simp [hr, slipEncode]]
    exact s.decoding_self
  rw [hstart, hopen] at hrun
  rw [slipEncode, List.length_append]
  exact (run_add_of_next hrun 1).trans ((run_one ..).trans (hs.step_decoding slipEnd))

/-- Settles O5: the packet is handed to the command decoder, and is read back as the request. -/
theorem requestOnTheWireIsRun : Obligations.RequestOnTheWireIsRun := by
  unfold Obligations.RequestOnTheWireIsRun
  intro s i rest hok hinbox hwaiting hmode hovf hd hf hi hm hlen hr
  have hs : s.Listens := ⟨hok, hinbox, hwaiting, hmode, hovf⟩
  rw [hs.run_slipEncode hd hf hlen hr]
  have hdecode : decode (s.decoding .inFrame [] rest).cfg.opcodes (encode s.cfg.opcodes i) = .ok i :=
    decodeOfEncode s.cfg.opcodes i hm hi
  rw [commandFrame, hdecode, State.decoding, ← hf]

end Sys2Proof.Machine
end

section
/-! The greeting of the boot step, and READ_REG (R89, R94, R270). -/

namespace Sys2Proof.Machine

variable {s : State}

theorem modeStep_boot (hm : s.mode = .boot) : modeStep s = .next (bootStep s) := by
  rw [modeStep, hm]

/-- Where the ports answer, the boot step is one frame and the change of mode (R402). -/
theorem bootStep_answered (hports : s.portsAnswer 1) : bootStep s = { s.sending s.cfg.greeting with mode := .cmd } :=
  emit_andThen_answered (portSilent_eq_false hports) s.cfg.greeting _

/-- Settles O19: the step is the boot step. -/
theorem bootSendsGreeting : Obligations.BootSendsGreeting := by
  unfold Obligations.BootSendsGreeting
  refine ⟨fun s hok hmain hm hports => ?_, rfl⟩
  rw [step_main hok hmain, modeStep_boot (s := { s with inbox := s.inbox.tail }) hm,
    bootStep_answered (s := { s with inbox := s.inbox.tail }) hports]
  rfl

/-- A response without a body: the value stands in the header, the status bytes are all the data (R87 to R89). -/
theorem successPacket_nil (op : Byte) (v : Word) :
    successPacket op v [] = [0x01, op, 2, 0] ++ put32 v ++ [0x00, 0x00] := rfl

/-- Where the ports answer, READ_REG of an allowed register reads it and responds with its word (R270). -/
theorem execReadReg_answered {p : List Byte} (v : Word) (hlen : p.length = 4)
    (hreg : inRegs s.cfg (wordAt p 0).toNat = true) (hports : s.portsAnswer 2) :
    let w := answerWord s (wordAt p 0).toNat (nextAnswer s)
    exec (.readReg v p) s
      = .next ((record (.regRead (wordAt p 0).toNat w) (drawn s)).sending
          (successPacket s.cfg.opcodes.readReg w [])) := by
  intro w
  have hsend : portSilent (record (.regRead (wordAt p 0).toNat w) (drawn s)) = false :=
    portSilent_eq_false (k := 0) (portsAnswer_after hports (record_trace ..) rfl)
  rw [exec, execReadReg, if_neg (not_not.mpr hlen), if_neg (by simp [hreg]), regRead_andThen,
    portSilent_eq_false hports, if_neg Bool.false_ne_true]
  exact congrArg _ (emit_andThen_answered hsend _ _)

/-- Settles O54: the word read is the response's value. -/
theorem readRegAnswersTheWord : Obligations.ReadRegAnswersTheWord := by
  unfold Obligations.ReadRegAnswersTheWord
  intro v p s hlen hreg hports w
  refine ⟨fun h => ?_, fun x h => ?_, ?_⟩
  · simp only [w, h, answerWord]
  · simp only [w, h, answerWord]
  · rw [execReadReg_answered v hlen hreg hports, successPacket_nil]
    simp [State.sending, record, drawn, w]

end Sys2Proof.Machine
end

section
/-! The receive FIFO (R130 to R138): what one push does, and that no command reads or writes what a push writes. -/

namespace Sys2Proof.Machine

variable {s t : State}

/-! ## One push -/

/-- `min(n + 1, 2^32 − 1)`, as R132 writes it. -/
theorem saturatingSucc_eq_ofNat (n : Word) :
    saturatingSucc n = BitVec.ofNat 32 (min (n.toNat + 1) (2 ^ 32 - 1)) := by
  apply BitVec.eq_of_toNat_eq
  rw [saturatingSucc_toNat, BitVec.toNat_ofNat]
  omega

/-- The step of an RX event that the transport delivers is a push of its bytes (R130, R131). -/
theorem isrStep_of_deliverable {b : List Byte} {packet : Bool} (h : deliverable s b packet = true) :
    isrStep b packet s = .next (pushBytes b s) := if_pos h

theorem deliverable_byte (h : s.transport = .uart) (x : Byte) : deliverable s [x] false = true := by
  simp [deliverable, h]

theorem deliverable_packet {b : List Byte} (h : s.transport ≠ .uart) (hpos : 1 ≤ b.length)
    (hmax : b.length ≤ s.cfg.usbPktMax) : deliverable s b true = true := by
  cases ht : s.transport with
  | uart => exact absurd ht h
  | usbSerialJtag => simp [deliverable, ht, hpos, hmax]
  | usbOtg => simp [deliverable, ht, hpos, hmax]

/-- Settles O13: the step is a push, which queues the bytes whole or counts one overflow. -/
theorem receiveQueuesOrCountsOverflow : Obligations.ReceiveQueuesOrCountsOverflow := by
  unfold Obligations.ReceiveQueuesOrCountsOverflow
  intro s e b es hok hi hevent
  have hpush : step s = .next (pushBytes b { s with inbox := es }) := by
    rw [step_eq_eventStep hok, hi]
    obtain ⟨x, rfl, rfl, huart⟩ | ⟨rfl, husb, hpos, hmax⟩ := hevent
    · exact isrStep_of_deliverable (deliverable_byte (s := { s with inbox := es }) huart x)
    · exact isrStep_of_deliverable (deliverable_packet (s := { s with inbox := es }) husb hpos hmax)
  rw [hpush, ← saturatingSucc_eq_ofNat]
  obtain ⟨hfits, h⟩ | ⟨hfull, h⟩ := pushBytes_cases b { s with inbox := es } <;> rw [h]
  · exact ⟨fun _ => rfl, fun hfull => absurd hfits (Nat.not_le.mpr hfull)⟩
  · exact ⟨fun hfits => absurd hfits (Nat.not_le.mpr hfull), fun _ => rfl⟩

/-- Settles O14: of the three steps there are, an RX event's is a push. -/
theorem receiveIsConfined : Obligations.ReceiveIsConfined := by
  unfold Obligations.ReceiveIsConfined
  intro s t e es hi hevent h
  obtain ⟨-, ⟨hmain, -⟩ | ⟨b, packet, es', hes, -, rfl⟩ | ⟨es', hreset, -⟩⟩ := step_next_cases h
  · obtain ⟨x, rfl⟩ | ⟨b, rfl⟩ := hevent <;> simp [hi] at hmain
  · have htail : es = es' := by
      obtain hes | ⟨x, hes, -⟩ := hes <;> exact (List.cons.inj (hi.symm.trans hes)).2
    subst htail
    obtain ⟨-, hpush⟩ | ⟨-, hpush⟩ := pushBytes_cases b { s with inbox := es } <;> rw [hpush]
    · exact ⟨rfl, List.prefix_append ..⟩
    · exact ⟨rfl, List.prefix_rfl⟩
  · obtain ⟨x, rfl⟩ | ⟨b, rfl⟩ := hevent <;> simp [hi] at hreset

/-- Settles O17: a decoder byte step that finds the queue empty ends where it began. -/
theorem emptyQueueHoldsMain : Obligations.EmptyQueueHoldsMain := by
  unfold Obligations.EmptyQueueHoldsMain
  intro s hok hmain hdec hovf hempty
  rw [step_decodes hok hmain hdec]
  simp [byteStep, hovf, hempty]

/-! ## Another FIFO -/

/-- `s` with the queue, the flag and the counter of `r`: what a push writes, exchanged. -/
def withFifo (r s : State) : State := { s with rxq := r.rxq, ovf := r.ovf, ovfCnt := r.ovfCnt }

@[simp] theorem withFifo_cfg (r s : State) : (withFifo r s).cfg = s.cfg := rfl
@[simp] theorem withFifo_infl (r s : State) : (withFifo r s).infl = s.infl := rfl
@[simp] theorem nextAnswer_withFifo (r s : State) : nextAnswer (withFifo r s) = nextAnswer s := rfl
@[simp] theorem dataChecks_withFifo (kind : SessionKind) (x : Word) (p : List Byte) (r s : State) :
    dataChecks kind x p (withFifo r s) = dataChecks kind x p s := rfl

/-- What a push does to the queue and its overflow fields depends on these and on RXQ_CAP alone. -/
theorem pushBytes_eq_withFifo (b : List Byte) (hcfg : t.cfg = s.cfg) (hrxq : t.rxq = s.rxq) (hovf : t.ovf = s.ovf)
    (hcount : t.ovfCnt = s.ovfCnt) : pushBytes b t = withFifo (pushBytes b s) t := by
  unfold pushBytes
  rw [hcfg, hrxq]
  split <;> simp only [withFifo, overflow, hcfg, hrxq, hovf, hcount]

/-- A conditional reads no FIFO, where its branches read none. -/
theorem ite_withFifo {r : State} {c : Prop} [Decidable c] {t t' u u' : State} (ht : t' = withFifo r t)
    (hu : u' = withFifo r u) : (if c then t' else u') = withFifo r (if c then t else u) := by
  rw [ht, hu]
  exact (apply_ite (withFifo r) c t u).symm

/-! ## The ports -/

/-- What a transaction comes to, with the state it leaves changed by `g`. -/
def PortResult.mapState {α : Type} (g : State → State) : PortResult α → PortResult α
  | .ok a s => .ok a (g s)
  | .fault s => .fault (g s)
  | .silent s => .silent (g s)

/-- `f` neither reads nor writes the FIFO. -/
def FifoBlind {α : Type} (f : State → PortResult α) : Prop :=
  ∀ r s, f (withFifo r s) = (f s).mapState (withFifo r)

section
variable {α β : Type} {f g : State → PortResult α}

theorem fifoBlind_ok (a : α) : FifoBlind (.ok a) := fun _ _ => rfl

theorem FifoBlind.ite {P : Prop} [Decidable P] (hf : FifoBlind f) (hg : FifoBlind g) :
    FifoBlind fun s => if P then f s else g s := by
  split
  · exact hf
  · exact hg

theorem FifoBlind.bind (hf : FifoBlind f) {k : α → State → PortResult β} (r s : State)
    (hk : ∀ a v, k a (withFifo r v) = (k a v).mapState (withFifo r)) :
    (f (withFifo r s)).bind k = ((f s).bind k).mapState (withFifo r) := by
  rw [hf r s]
  cases f s with
  | ok a v => exact hk a v
  | _ => rfl

theorem FifoBlind.andThen (hf : FifoBlind f) {k : α → State → State} (r s : State)
    (hk : ∀ a v, k a (withFifo r v) = withFifo r (k a v)) :
    (f (withFifo r s)).andThen k = withFifo r ((f s).andThen k) := by
  rw [hf r s]
  cases f s with
  | ok a v => exact hk a v
  | _ => rfl

/-- The port is asked alike, so the FIFO shows in its answer only. -/
theorem request_withFifo {q : PortRequest} {r s : State} {x y : PortResult α} (h : y = x.mapState (withFifo r)) :
    request q (withFifo r s) y = (request q s x).mapState (withFifo r) := by
  have hsilent : portSilent (withFifo r s) = portSilent s := rfl
  unfold request
  rw [hsilent, h]
  split <;> rfl

end

theorem flashErase_fifoBlind (a n : Nat) : FifoBlind (flashErase a n) := fun r s =>
  request_withFifo (by rw [nextAnswer_withFifo]; cases nextAnswer s <;> rfl)

theorem flashEraseChip_fifoBlind : FifoBlind flashEraseChip := fun r s =>
  request_withFifo (by rw [nextAnswer_withFifo]; cases nextAnswer s <;> rfl)

theorem flashWrite_fifoBlind (a : Nat) (b : List Byte) : FifoBlind (flashWrite a b) := fun r s =>
  request_withFifo (by rw [nextAnswer_withFifo]; cases nextAnswer s <;> rfl)

theorem flashRead_fifoBlind (a n : Nat) : FifoBlind (flashRead a n) := fun r s =>
  request_withFifo (by rw [nextAnswer_withFifo]; cases nextAnswer s <;> rfl)

theorem memWrite_fifoBlind (a : Nat) (b : List Byte) : FifoBlind (memWrite a b) := fun _ _ => request_withFifo rfl

theorem regRead_fifoBlind (a : Nat) : FifoBlind (regRead a) := fun _ _ => request_withFifo rfl

theorem regWrite_fifoBlind (a : Nat) (x : Word) : FifoBlind (regWrite a x) := fun _ _ => request_withFifo rfl

theorem delay_fifoBlind (us : Word) : FifoBlind (delay us) := fun _ _ => request_withFifo rfl

theorem respond_fifoBlind (c : Opcode) (x : Word) (b : List Byte) : FifoBlind (respond c x b) :=
  fun _ _ => request_withFifo rfl

theorem emit_fifoBlind (p : List Byte) : FifoBlind (emit p) := fun _ _ => request_withFifo rfl

theorem ack_withFifo (c : Opcode) (r s : State) : ack c (withFifo r s) = withFifo r (ack c s) :=
  (respond_fifoBlind c 0 []).andThen r s fun _ _ => rfl

theorem fail_withFifo (c : Opcode) (f : Failure) (r s : State) : fail c f (withFifo r s) = withFifo r (fail c f s) :=
  (emit_fifoBlind (failurePacket (s.cfg.opcodes.code c) (f.code s.cfg.errs))).andThen r s fun _ _ => rfl

/-- One check of a command, which fails it or lets it go on. -/
theorem check_withFifo {c : Prop} [Decidable c] {o : Opcode} {f : Failure} {r s u u' : State} (h : u' = withFifo r u) :
    (if c then fail o f (withFifo r s) else u') = withFifo r (if c then fail o f s else u) :=
  ite_withFifo (fail_withFifo o f r s) h

/-- The erase or write of a command, left out where there is nothing to do, and the rest of its rule. -/
theorem FifoBlind.andThen_if {f : State → PortResult Unit} (hf : FifoBlind f) (P : Prop) [Decidable P]
    {k : Unit → State → State} (r s : State) (hk : ∀ v, k () (withFifo r v) = withFifo r (k () v)) :
    (if P then f (withFifo r s) else .ok () (withFifo r s)).andThen k
      = withFifo r ((if P then f s else .ok () s).andThen k) :=
  (hf.ite (P := P) (fifoBlind_ok ())).andThen r s fun _ => hk

/-! ## The session commands -/

/-- The command `e` does the same in `s` with the FIFO of `r`, and keeps that FIFO. -/
def RunsFifoBlind (r s : State) (e : State → Host.Outcome State Fault Refusal) : Prop :=
  ∃ t, e s = .next t ∧ e (withFifo r s) = .next (withFifo r t)

section
variable (x : Word) (p : List Byte) {r s : State}

theorem beginFlash_withFifo (c : Opcode) (kind : SessionKind) (infl : Option Inflate) :
    beginFlash c kind infl p (withFifo r s) = withFifo r (beginFlash c kind infl p s) := by
  unfold beginFlash
  simp only [discardSession_cfg, withFifo_cfg]
  cases beginChecks s.cfg (inFlash s.cfg) p with
  | some f => exact fail_withFifo c f r (discardSession s)
  | none =>
    exact (flashErase_fifoBlind _ _).andThen_if _ r (discardSession s) fun v =>
      ack_withFifo c r { v with sess := openSession v.cfg kind p, infl := infl }

theorem endFlash_withFifo (c : Opcode) (kind : SessionKind) :
    endFlash c kind p (withFifo r s) = withFifo r (endFlash c kind p s) :=
  check_withFifo <| check_withFifo <|
    (respond_fifoBlind c 0 []).andThen r (discardSession s) fun _ _ => ite_withFifo rfl rfl

theorem endMem_withFifo : endMem p (withFifo r s) = withFifo r (endMem p s) :=
  check_withFifo <| check_withFifo <|
    (respond_fifoBlind .memEnd 0 []).andThen r (discardSession s) fun _ _ => ite_withFifo rfl rfl

/-- FLASH_DEFL_DATA after the inflater was fed. -/
theorem writeInflated_withFifo (d out : List Byte) (st : Inflate) :
    writeInflated d out st (withFifo r s) = withFifo r (writeInflated d out st s) := by
  refine ite_withFifo ?_ ?_
  · exact (flashWrite_fifoBlind _ _).andThen_if _ r s fun v => fail_withFifo _ _ r (discardSession v)
  · refine (flashWrite_fifoBlind _ _).andThen_if _ r s fun v => ?_
    cases st.status with
    | error => exact fail_withFifo _ _ r (discardSession (advanceWritten out.length v))
    | _ => exact ack_withFifo _ r (accept out.length d v)

/-- A rule that ends in the state `f` gives. -/
theorem runsFifoBlind_next {f : State → State} (h : f (withFifo r s) = withFifo r (f s)) :
    RunsFifoBlind r s fun s => .next (f s) := ⟨f s, rfl, congrArg _ h⟩

theorem execMemBegin_runsFifoBlind : RunsFifoBlind r s (execMemBegin x p) := by
  refine runsFifoBlind_next ?_
  simp only [discardSession_cfg, withFifo_cfg]
  cases beginChecks s.cfg (ramOk s.cfg) p with
  | some f => exact fail_withFifo _ f r (discardSession s)
  | none => exact ack_withFifo _ r { discardSession s with sess := openSession s.cfg .mem p }

theorem execFlashData_runsFifoBlind : RunsFifoBlind r s (execFlashData x p) := by
  refine runsFifoBlind_next ?_
  rw [dataChecks_withFifo]
  cases dataChecks .flash x p s with
  | some f => exact fail_withFifo ..
  | none =>
    exact ite_withFifo rfl <|
      (flashWrite_fifoBlind _ _).andThen_if _ r s fun v => ack_withFifo _ r (accept _ _ v)

theorem execMemData_runsFifoBlind : RunsFifoBlind r s (execMemData x p) := by
  refine runsFifoBlind_next ?_
  rw [dataChecks_withFifo]
  cases dataChecks .mem x p s with
  | some f => exact fail_withFifo ..
  | none =>
    exact ite_withFifo rfl <|
      (memWrite_fifoBlind _ _).andThen_if _ r s fun v => ack_withFifo _ r (accept _ _ v)

theorem execFlashDeflData_runsFifoBlind : RunsFifoBlind r s (execFlashDeflData x p) := by
  refine runsFifoBlind_next ?_
  rw [dataChecks_withFifo]
  cases dataChecks .defl x p s with
  | some f => exact fail_withFifo ..
  | none =>
    refine ite_withFifo rfl ?_
    rw [withFifo_infl]
    cases s.infl with
    | none => rfl
    | some st => exact writeInflated_withFifo (s := { s with infl := some _ }) ..

/-! ## The single-shot commands -/

theorem digestFlash_fifoBlind (fuel a left : Nat) (c : Md5Context) : FifoBlind (digestFlash fuel a left c) := by
  induction fuel generalizing a left c with
  | zero => exact fifoBlind_ok c
  | succ fuel ih =>
    intro r s
    unfold digestFlash
    split
    · rfl
    · exact (flashRead_fifoBlind _ _).bind r s fun _ v => ih _ _ _ r v

/-- A register is written directly, or read first. -/
theorem writeEntry_fifoBlind (e : RegEntry) : FifoBlind (writeEntry e) := by
  have hmasked : FifoBlind fun s => (regRead e.addr.toNat s).bind fun old =>
      regWrite e.addr.toNat ((old &&& ~~~e.mask) ||| (e.value &&& e.mask)) :=
    fun r s => (regRead_fifoBlind _).bind r s fun _ => regWrite_fifoBlind _ _ r
  exact fun r s => ((regWrite_fifoBlind _ _).ite hmasked).bind r s fun _ =>
    (fifoBlind_ok ()).ite (delay_fifoBlind _) r

theorem writeEntries_fifoBlind (es : List RegEntry) : FifoBlind (writeEntries es) := by
  induction es with
  | nil => exact fifoBlind_ok ()
  | cons e es ih => exact fun r s => (writeEntry_fifoBlind e).bind r s fun _ => ih r

theorem execReadFlash_runsFifoBlind : RunsFifoBlind r s (execReadFlash x p) :=
  runsFifoBlind_next <| check_withFifo <| check_withFifo <| check_withFifo <| check_withFifo <|
    (respond_fifoBlind _ _ _).andThen r s fun _ _ => rfl

theorem execEraseFlash_runsFifoBlind : RunsFifoBlind r s (execEraseFlash x p) :=
  runsFifoBlind_next <| check_withFifo <|
    flashEraseChip_fifoBlind.andThen r s fun _ => ack_withFifo _ r

theorem execEraseRegion_runsFifoBlind : RunsFifoBlind r s (execEraseRegion x p) :=
  runsFifoBlind_next <| check_withFifo <| check_withFifo <| check_withFifo <|
    (flashErase_fifoBlind _ _).andThen_if _ r s fun _ => ack_withFifo _ r _

theorem execSpiFlashMd5_runsFifoBlind : RunsFifoBlind r s (execSpiFlashMd5 x p) :=
  runsFifoBlind_next <| check_withFifo <| check_withFifo <|
    (digestFlash_fifoBlind _ _ _ _).andThen r s fun _ v => (respond_fifoBlind _ _ _).andThen r v fun _ _ => rfl

theorem execReadReg_runsFifoBlind : RunsFifoBlind r s (execReadReg x p) :=
  runsFifoBlind_next <| check_withFifo <| check_withFifo <|
    (regRead_fifoBlind _).andThen r s fun _ v => (respond_fifoBlind _ _ _).andThen r v fun _ _ => rfl

theorem execWriteReg_runsFifoBlind : RunsFifoBlind r s (execWriteReg x p) :=
  runsFifoBlind_next <| check_withFifo <| check_withFifo <|
    (writeEntries_fifoBlind _).andThen r s fun _ => ack_withFifo _ r

theorem execChangeBaudrate_runsFifoBlind : RunsFifoBlind r s (execChangeBaudrate x p) :=
  runsFifoBlind_next <| check_withFifo <| check_withFifo <| check_withFifo <|
    (respond_fifoBlind _ _ _).andThen r s fun _ _ => rfl

end

/-! ## Every command -/

/-- No command reads or writes the FIFO (R137, R377). -/
theorem exec_runsFifoBlind (i : Instr) (r s : State) : RunsFifoBlind r s (exec i) := by
  cases i with
  | sync => exact runsFifoBlind_next (ack_withFifo .sync r { discardSession s with fbuf := [] })
  | flashBegin => exact runsFifoBlind_next (beginFlash_withFifo ..)
  | flashData x p => exact execFlashData_runsFifoBlind x p
  | flashEnd => exact runsFifoBlind_next (endFlash_withFifo ..)
  | memBegin x p => exact execMemBegin_runsFifoBlind x p
  | memData x p => exact execMemData_runsFifoBlind x p
  | memEnd x p => exact runsFifoBlind_next (endMem_withFifo p)
  | memFinish x p => exact runsFifoBlind_next (endMem_withFifo p)
  | flashDeflBegin => exact runsFifoBlind_next (beginFlash_withFifo ..)
  | flashDeflData x p => exact execFlashDeflData_runsFifoBlind x p
  | flashDeflEnd => exact runsFifoBlind_next (endFlash_withFifo ..)
  | readFlash x p => exact execReadFlash_runsFifoBlind x p
  | eraseFlash x p => exact execEraseFlash_runsFifoBlind x p
  | eraseRegion x p => exact execEraseRegion_runsFifoBlind x p
  | spiFlashMd5 x p => exact execSpiFlashMd5_runsFifoBlind x p
  | readReg x p => exact execReadReg_runsFifoBlind x p
  | writeReg x p => exact execWriteReg_runsFifoBlind x p
  | changeBaudrate x p => exact execChangeBaudrate_runsFifoBlind x p

/-! ## A push after the command -/

theorem Course.rxq {G : Prop} (h : Course G s t) : t.rxq = s.rxq := (congrArg State.rxq h.frame :)

/-- No rule reads bytes, so none touches the queue, and none writes the parameters (R6). -/
theorem Ends.queue {G : Prop} {F : List Byte → Prop} (h : Ends G F s t) : t.cfg = s.cfg ∧ t.rxq = s.rxq := by
  cases h with
  | held q h => exact ⟨h.cfg, h.rxq⟩
  | faulted e h => exact ⟨h.cfg, h.rxq⟩
  | broken => exact ⟨rfl, rfl⟩
  | sends p h hp ht => cases ht <;> exact ⟨h.cfg, h.rxq⟩

/-- Settles O15: a push exchanges the FIFO, which the command does not see; and after the command, which keeps the FIFO
and RXQ_CAP, the same push exchanges it for the same. -/
theorem receiveCommutesWithCommands : Obligations.ReceiveCommutesWithCommands := by
  unfold Obligations.ReceiveCommutesWithCommands
  intro i s b
  obtain ⟨t, ht, hpushed⟩ := exec_runsFifoBlind i (pushBytes b s) s
  obtain ⟨t', ht', hends⟩ := exec_ends i s
  cases ht.symm.trans ht'
  obtain ⟨hcfg, hrxq⟩ := hends.queue
  obtain ⟨hovf, hcount⟩ := hends.overflow
  have hbefore : pushBytes b s = withFifo (pushBytes b s) s := pushBytes_eq_withFifo b rfl rfl rfl rfl
  have hafter : pushBytes b t = withFifo (pushBytes b s) t := pushBytes_eq_withFifo b hcfg hrxq hovf hcount
  refine ⟨t, ht, ?_⟩
  rw [hafter, ← hpushed, ← hbefore]

end Sys2Proof.Machine
end

section
/-! The SLIP codec, R150 to R165: what the decoder makes of a frame the encoder wrote, where the two special bytes stand
in such a frame, and MAIN's step at a byte that ends a frame or discards it. -/

namespace Sys2Proof.Machine

variable {cap : Nat} {d : DecoderState} {f p : List Byte} {s : State} {rest : List Byte}

/-! ## Frames read back -/

/-- A delimiter brings the decoder into a frame from any state (R151, R152, R153, R157). -/
theorem slipByte_end_dstate (cap : Nat) (d : DecoderState) (f : List Byte) :
    (slipByte cap d f slipEnd).dstate = .inFrame := by
  cases d <;> rfl

/-- Inside a frame the delimiter delivers the buffer and empties it (R153). -/
theorem slipDecode_inFrame_end (cap : Nat) (f r : List Byte) :
    slipDecode cap .inFrame f (slipEnd :: r)
      = ((slipDecode cap .inFrame [] r).1, (slipDecode cap .inFrame [] r).2.1,
         f :: (slipDecode cap .inFrame [] r).2.2) := rfl

/-- After its opening delimiter, the frame of a packet that fits delivers that packet (R162). -/
theorem slipDecode_escaped_end (h : p.length ≤ cap) :
    slipDecode cap .inFrame [] (p.flatMap slipEscape ++ [slipEnd]) = (.inFrame, [], [p]) := by
  have hbody : slipDecode cap .inFrame [] (p.flatMap slipEscape) = (.inFrame, p, []) :=
    slipDecode_flatMap_escape (by simpa using h)
  rw [slipDecode_append, hbody]
  rfl

/-- Inside a frame, the opening delimiter first delivers what the buffer holds. -/
theorem slipDecode_inFrame_encode (h : p.length ≤ cap) (f : List Byte) :
    slipDecode cap .inFrame f (slipEncode p) = (.inFrame, [], [f, p]) := by
  rw [slipEncode, List.append_assoc, List.singleton_append, slipDecode_inFrame_end, slipDecode_escaped_end h]

theorem slipDecode_hunt_encode (h : p.length ≤ cap) :
    slipDecode cap .hunt [] (slipEncode p) = (.inFrame, [], [p]) := by
  have hopen : slipByte cap .hunt [] slipEnd = ⟨.inFrame, [], none⟩ := rfl
  rw [slipEncode, List.append_assoc, List.singleton_append, slipDecode_cons, hopen, slipDecode_escaped_end h]
  rfl

/-- Settles O9: the opening delimiter empties the buffer, and the escaped bytes fill it with the packet. -/
theorem slipDecodesWhatItEncodes : Obligations.SlipDecodesWhatItEncodes := by
  unfold Obligations.SlipDecodesWhatItEncodes
  intro cap p
  exact ⟨fun _ hfits => ⟨slipDecode_hunt_encode hfits, slipDecode_inFrame_encode hfits []⟩,
    slipDecode_hunt_encode (Nat.zero_le cap)⟩

/-- Settles O11: the delimiter brings the decoder into a frame, whose buffer the next opening delimiter delivers before
the packet. -/
theorem decoderResynchronises : Obligations.DecoderResynchronises := by
  unfold Obligations.DecoderResynchronises
  intro cap d fbuf p
  refine ⟨slipByte_end_dstate cap d fbuf, fun _ hfits => ?_⟩
  have hsync := slipByte_end_dstate cap d fbuf
  rw [show (0xC0 : Byte) = slipEnd from rfl, slipDecode_cons, hsync, slipDecode_inFrame_encode hfits]
  exact ⟨rfl, rfl, by simp⟩

/-! ## The special bytes of an encoded frame -/

/-- No byte is escaped to a delimiter (R160). -/
theorem slipEnd_not_mem_escape (x : Byte) : slipEnd ∉ slipEscape x := by
  unfold slipEscape
  split
  · decide
  split
  · decide
  · simpa [eq_comm] using ‹¬x = slipEnd›

theorem slipEnd_not_mem_escaped (p : List Byte) : slipEnd ∉ p.flatMap slipEscape := fun h => by
  obtain ⟨x, -, hx⟩ := List.mem_flatMap.mp h
  exact slipEnd_not_mem_escape x hx

/-- Between two delimiters and no other, they stand at the ends. -/
theorem getElem?_delimited {b : List Byte} (hb : slipEnd ∉ b) (k : Nat) :
    ([slipEnd] ++ b ++ [slipEnd])[k]? = some slipEnd ↔ k = 0 ∨ k + 1 = ([slipEnd] ++ b ++ [slipEnd]).length := by
  cases k with
  | zero => simp
  | succ j =>
    have hinside : b[j]? ≠ some slipEnd := fun h => hb (List.mem_of_getElem? h)
    obtain hj | hj | hj := Nat.lt_trichotomy j b.length
    · simpa [List.getElem?_append_left hj, hj.ne] using hinside
    · simp [hj]
    · simp [hj, hj.ne']

/-- Every escape byte is followed by one of the two bytes that may follow it (R80). -/
def EscapesPaired (b : List Byte) : Prop :=
  ∀ k, b[k]? = some slipEsc → b[k + 1]? = some slipEscEnd ∨ b[k + 1]? = some slipEscEsc

theorem EscapesPaired.append {a b : List Byte} (ha : EscapesPaired a) (hb : EscapesPaired b) :
    EscapesPaired (a ++ b) := fun k hk => by
  obtain hlt | hge := Nat.lt_or_ge k a.length
  · rw [List.getElem?_append_left hlt] at hk
    have hnext : k + 1 < a.length := by
      by_contra hend
      simpa [List.getElem?_eq_none (Nat.le_of_not_lt hend)] using ha k hk
    rw [List.getElem?_append_left hnext]
    exact ha k hk
  · rw [List.getElem?_append_right hge] at hk
    rw [List.getElem?_append_right (Nat.le_add_right_of_le hge), Nat.sub_add_comm hge]
    exact hb _ hk

theorem escapesPaired_singleton {x : Byte} (hx : x ≠ slipEsc) : EscapesPaired [x] := fun _ hk =>
  absurd (List.mem_singleton.mp (List.mem_of_getElem? hk)).symm hx

/-- An escape pair: its second byte is no escape byte itself. -/
theorem escapesPaired_pair {y : Byte} (hy : y = slipEscEnd ∨ y = slipEscEsc) : EscapesPaired [slipEsc, y] :=
  have hne : y ≠ slipEsc := by rcases hy with rfl | rfl <;> decide
  fun
  | 0, _ => by simpa using hy
  | 1, hk => absurd (by simpa using hk) hne

theorem escapesPaired_escape (x : Byte) : EscapesPaired (slipEscape x) := by
  unfold slipEscape
  split
  · exact escapesPaired_pair (.inl rfl)
  split
  · exact escapesPaired_pair (.inr rfl)
  · exact escapesPaired_singleton ‹_›

theorem escapesPaired_escaped (p : List Byte) : EscapesPaired (p.flatMap slipEscape) := by
  induction p with
  | nil => exact nofun
  | cons x p ih => exact (escapesPaired_escape x).append ih

theorem escapesPaired_encode (p : List Byte) : EscapesPaired (slipEncode p) :=
  have hend : EscapesPaired [slipEnd] := escapesPaired_singleton (by decide)
  (hend.append (escapesPaired_escaped p)).append hend

/-- A byte that is escaped takes one byte more (R82). -/
theorem length_escape (x : Byte) : (slipEscape x).length = if x == 0xC0 || x == 0xDB then 2 else 1 := by
  unfold slipEscape
  split
  · simp [‹x = slipEnd›, slipEnd]
  split
  · simp [‹x = slipEsc›, slipEsc]
  · simp_all [slipEnd, slipEsc]

theorem length_escaped (p : List Byte) :
    (p.flatMap slipEscape).length = p.length + (p.filter fun x => x == 0xC0 || x == 0xDB).length := by
  induction p with
  | nil => rfl
  | cons x p ih =>
    rw [List.flatMap_cons, List.length_append, length_escape, ih, List.filter_cons]
    split <;> simp only [List.length_cons] <;> omega

/-- Settles O10: the escaped bytes hold no delimiter, and each pair of them is written whole. -/
theorem encodedFrameHasNoRawDelimiter : Obligations.EncodedFrameHasNoRawDelimiter := by
  unfold Obligations.EncodedFrameHasNoRawDelimiter
  intro p k
  refine ⟨getElem?_delimited (slipEnd_not_mem_escaped p) k, escapesPaired_encode p k, ?_⟩
  simp only [slipEncode, List.length_append, List.length_singleton, length_escaped]
  omega

/-! ## One decoder byte step of MAIN -/

/-- MAIN's step at a byte, in mode CMD and in a stream that reads: the byte is taken, and a frame it completes is
handled in the state the decoder left (R150, R159). -/
theorem step_decodes_cons {x : Byte} (hok : s.cfg.ok = true) (hmain : s.mainNext) (hdec : s.Decodes)
    (hovf : s.ovf = false) (hr : s.rxq = x :: rest) :
    let q := slipByte s.cfg.frameCap s.dstate s.fbuf x
    let u := { s with inbox := s.inbox.tail, rxq := rest, dstate := q.dstate, fbuf := q.fbuf }
    step s = q.delivered.elim (.next u) fun g => deliver g u := by
  rw [step_decodes hok hmain hdec]
  simp only [byteStep, hovf, hr, Bool.false_eq_true, if_false]
  cases (slipByte s.cfg.frameCap s.dstate s.fbuf x).delivered <;> rfl

/-- A step at the delimiter that ends a frame handles that frame (R153, R159). -/
theorem State.AtFrameEnd.step_eq_deliver (h : s.AtFrameEnd f rest) (hdec : s.Decodes) :
    step s = deliver f (s.afterFrame rest) := by
  obtain ⟨hok, hmain, hovf, hd, hf, hr⟩ := h
  have hend : slipByte s.cfg.frameCap s.dstate s.fbuf slipEnd = ⟨.inFrame, [], some f⟩ := by rw [hd, hf]; rfl
  rw [step_decodes_cons hok hmain hdec hovf hr, hend]
  rfl

/-- In mode CMD the frame is a command's (R159, R180, R184). -/
theorem State.AtFrameEnd.step_eq_commandFrame (h : s.AtFrameEnd f rest) (hmode : s.mode = .cmd) :
    step s = commandFrame f (s.afterFrame rest) := by
  have hafter : (s.afterFrame rest).mode = .cmd := hmode
  rw [h.step_eq_deliver (.inl hmode), deliver, hafter]

/-- Settles O4: the frame goes to the command decoder, which reads the request. -/
theorem stepRunsDecodedInstruction : Obligations.StepRunsDecodedInstruction := by
  unfold Obligations.StepRunsDecodedInstruction
  intro s f rest i hend hmode hi
  have hdecode : decode (s.afterFrame rest).cfg.opcodes f = .ok i := hi
  rw [hend.step_eq_commandFrame hmode, commandFrame, hdecode]

/-- Settles O8: the frame goes to the command decoder, which ignores an empty one. -/
theorem emptyFrameIsIgnored : Obligations.EmptyFrameIsIgnored := by
  unfold Obligations.EmptyFrameIsIgnored
  intro s rest hend hmode
  rw [hend.step_eq_commandFrame hmode, commandFrame_nil]

/-! ## Frames discarded -/

/-- A frame over capacity is discarded (R155, R156). -/
theorem slipAppend_full (h : cap ≤ f.length) (x : Byte) : slipAppend cap f x = ⟨.hunt, [], none⟩ :=
  if_neg (Nat.not_lt.mpr h)

theorem slipByte_inFrame_full {x : Byte} (hend : x ≠ slipEnd) (hesc : x ≠ slipEsc) (h : cap ≤ f.length) :
    slipByte cap .inFrame f x = ⟨.hunt, [], none⟩ := by
  simp [slipByte, hend, hesc, slipAppend_full h]

theorem slipByte_escape_full {x : Byte} (hx : x = slipEscEnd ∨ x = slipEscEsc) (h : cap ≤ f.length) :
    slipByte cap .escape f x = ⟨.hunt, [], none⟩ := by
  obtain rfl | rfl := hx
  · exact slipAppend_full h slipEnd
  · exact slipAppend_full h slipEsc

/-- An escape before any other byte discards the frame, and the decoder awaits the next delimiter (R158). -/
theorem slipByte_escape_invalid {x : Byte} (hend : x ≠ slipEnd) (hescEnd : x ≠ slipEscEnd) (hescEsc : x ≠ slipEscEsc) :
    slipByte cap .escape f x = ⟨.hunt, [], none⟩ := by
  simp [slipByte, hend, hescEnd, hescEsc]

/-- An escape before a delimiter discards the frame, and the delimiter opens the next one (R157). -/
theorem slipByte_escape_end (cap : Nat) (f : List Byte) : slipByte cap .escape f slipEnd = ⟨.inFrame, [], none⟩ := rfl

/-- Settles O12: the decoder byte step in each of the four discards, which delivers no frame. -/
theorem malformedFrameIsDiscarded : Obligations.MalformedFrameIsDiscarded := by
  unfold Obligations.MalformedFrameIsDiscarded
  intro s x rest hok hmain hdec hovf hr
  rw [step_decodes_cons hok hmain hdec hovf hr]
  refine ⟨fun hdiscard => ?_, fun ⟨hd, hx⟩ => ?_⟩
  · have hbyte : slipByte s.cfg.frameCap s.dstate s.fbuf x = ⟨.hunt, [], none⟩ := by
      obtain ⟨hd, hend, hesc, hfull⟩ | ⟨hd, hx, hfull⟩ | ⟨hd, hend, hescEnd, hescEsc⟩ := hdiscard <;> rw [hd]
      · exact slipByte_inFrame_full hend hesc hfull
      · exact slipByte_escape_full hx hfull
      · exact slipByte_escape_invalid hend hescEnd hescEsc
    rw [hbyte]
    rfl
  · have hbyte : slipByte s.cfg.frameCap s.dstate s.fbuf x = ⟨.inFrame, [], none⟩ := by
      rw [hd, hx]
      exact slipByte_escape_end s.cfg.frameCap s.fbuf
    rw [hbyte]
    rfl

end Sys2Proof.Machine
end

section
/-! What a check refuses: a frame that is no request (R181 to R183, R187), and a command whose first failing check ends
it (R186, R372). Each gets one failure response, and what a command does past its checks is not reached. -/

namespace Sys2Proof.Machine

variable {s t u : State} {f rest p : List Byte}

/-! ## Frames that are no requests -/

section
variable {m : OpcodeMap}

theorem decode_short (hpos : 1 ≤ f.length) (hlen : f.length ≤ 7) :
    decode m f = .error (.short (if 2 ≤ f.length then byteAt f 1 else 0x00)) := by
  rw [decode, if_neg (by omega), if_pos (by omega)]

theorem decode_badDirection (hlen : 8 ≤ f.length) (hdir : byteAt f 0 ≠ 0x00) :
    decode m f = .error (.badDirection (byteAt f 1)) := by
  rw [decode, if_neg (by omega), if_neg (by omega), if_pos hdir]

/-- The length is checked before the opcode (R183, R185). -/
theorem decode_badLength (hlen : 8 ≤ f.length) (hdir : byteAt f 0 = 0x00) (hl : f.length ≠ 8 + (le16 f 2).toNat) :
    decode m f = .error (.badLength (byteAt f 1)) := by
  rw [decode, if_neg (by omega), if_neg (by omega), if_neg (not_not.mpr hdir), if_pos hl]

theorem decode_notImplemented (hlen : 8 ≤ f.length) (hdir : byteAt f 0 = 0x00) (hl : f.length = 8 + (le16 f 2).toNat)
    (hop : ∀ c, m.code c ≠ byteAt f 1) : decode m f = .error (.notImplemented (byteAt f 1)) := by
  rw [decode, if_neg (by omega), if_neg (by omega), if_neg (not_not.mpr hdir), if_neg (not_not.mpr hl),
    find_none.mpr hop]

end

/-- The step at the end of a frame that is no request: one failure response, in the state the decoder left. -/
theorem State.AtFrameEnd.step_of_reject (h : s.AtFrameEnd f rest) (hmode : s.mode = .cmd) (hports : s.portsAnswer 1)
    {e : FrameReject} (he : decode s.cfg.opcodes f = .error e) {op : Byte} {cause : Failure}
    (hreject : rejectFrame e (s.afterFrame rest) = raiseFail op cause (s.afterFrame rest)) :
    step s = .next ((s.afterFrame rest).sending (failPacket op (cause.code s.cfg.errs))) := by
  have hdecode : decode (s.afterFrame rest).cfg.opcodes f = .error e := he
  have hport : portSilent (s.afterFrame rest) = false := portSilent_eq_false (s := s) hports
  have hsent : rejectFrame e (s.afterFrame rest)
      = (s.afterFrame rest).sending (failPacket op (cause.code s.cfg.errs)) := by
    rw [hreject, raiseFail_eq, hport, if_neg Bool.false_ne_true]
    rfl
  rw [h.step_eq_commandFrame hmode, commandFrame, hdecode, ← hsent]

/-- Settles O6: the three checks the decoder makes before it looks for the opcode. -/
theorem malformedPacketsGetOneFailure : Obligations.MalformedPacketsGetOneFailure := by
  unfold Obligations.MalformedPacketsGetOneFailure
  intro s f rest h hmode hports
  refine ⟨fun hpos hlen => ?_, fun hlen hdir => ?_, fun hlen hdir hl => ?_⟩
  · exact h.step_of_reject hmode hports (decode_short hpos hlen) (cause := .badDataLen) rfl
  · exact h.step_of_reject hmode hports (decode_badDirection hlen hdir) (cause := .invalidCommand) rfl
  · exact h.step_of_reject hmode hports (decode_badLength hlen hdir hl) (cause := .badDataLen) rfl

/-- Settles O7: no command has the opcode, so the decoder finds none. -/
theorem unimplementedOpcodeGetsOneFailure : Obligations.UnimplementedOpcodeGetsOneFailure := by
  unfold Obligations.UnimplementedOpcodeGetsOneFailure
  intro s f rest h hmode hports hlen hdir hl hop
  exact h.step_of_reject hmode hports (decode_notImplemented hlen hdir hl hop) (cause := .cmdNotImplemented) rfl

/-! ## One check of a command

The checks of a command are a chain of branches: those before the first that fails are passed, and that one refuses. -/

section
variable {check : Prop} [Decidable check] {c : Opcode} {cause : Failure}

theorem check_refuses (hports : s.portsAnswer 1) (hfails : check) :
    (if check then fail c cause s else u) = s.failing c cause := by
  rw [if_pos hfails, fail_eq_failing c cause hports]

theorem check_passes (hholds : ¬check) (hrest : u = t) : (if check then fail c cause s else u) = t :=
  (if_neg hholds).trans hrest

end

/-! ## The ENDs -/

/-- An END of either kind checks the length of its payload and then the session (R209, R220, R235). -/
theorem exec_end_refused (hports : s.portsAnswer 1) {i : Instr} {c : Opcode} {kind : SessionKind} {n : Nat}
    (hexec : exec i s = .next (if p.length ≠ n then fail c .badDataLen s
      else if s.sess.kind ≠ kind then fail c .notInFlashMode s else u)) :
    (p.length ≠ n → exec i s = .next (s.failing c .badDataLen))
      ∧ (p.length = n → s.sess.kind ≠ kind → exec i s = .next (s.failing c .notInFlashMode)) := by
  rw [hexec]
  exact ⟨fun hlen => congrArg _ (check_refuses hports hlen),
    fun hlen hkind => congrArg _ (check_passes (not_not.mpr hlen) (check_refuses hports hkind))⟩

/-- Settles O43: each of the four commands makes the two checks, for its own length and kind. -/
theorem refusedEndChangesNothing : Obligations.RefusedEndChangesNothing := by
  unfold Obligations.RefusedEndChangesNothing
  intro v p s i kind c n hi hports
  obtain ⟨rfl, rfl, rfl, rfl⟩ | ⟨rfl, rfl, rfl, rfl⟩ | ⟨rfl, rfl, rfl, rfl⟩ | ⟨rfl, rfl, rfl, rfl⟩ := hi
  · exact exec_end_refused hports rfl
  · exact exec_end_refused hports rfl
  · exact exec_end_refused hports rfl
  · exact exec_end_refused hports rfl

/-! ## The BEGINs -/

/-- The first check of a BEGIN that fails, for the bounds predicate of its target (R202, R213, R230). -/
def BeginRefused (region : Nat → Nat → Prop) (p : List Byte) (s : State) (cause : Failure) : Prop :=
  (p.length ≠ 16 ∧ cause = .badDataLen)
    ∨ (p.length = 16 ∧ ((wordAt p 2).toNat = 0 ∨ s.cfg.maxWriteBlock < (wordAt p 2).toNat) ∧ cause = .badBlocksize)
    ∨ (p.length = 16 ∧ 1 ≤ (wordAt p 2).toNat ∧ (wordAt p 2).toNat ≤ s.cfg.maxWriteBlock
        ∧ ¬region (wordAt p 3).toNat (wordAt p 0).toNat ∧ cause = .bounds)

theorem beginChecks_eq_some {region : Nat → Nat → Bool} {cause : Failure}
    (h : BeginRefused (fun a n => region a n = true) p s cause) : beginChecks s.cfg region p = some cause := by
  unfold beginChecks
  obtain ⟨hlen, rfl⟩ | ⟨hlen, hblock, rfl⟩ | ⟨hlen, hpos, hmax, hregion, rfl⟩ := h
  · rw [if_pos hlen]
  · rw [if_neg (not_not.mpr hlen), if_pos (by simpa using hblock)]
  · rw [if_neg (not_not.mpr hlen), if_neg (by simp; omega), if_neg hregion]

/-- The session is dropped before the checks (R201), so a failing one leaves none. -/
theorem beginFlash_refused {cause : Failure} (hports : s.portsAnswer 1) (h : BeginRefused (InFlash s) p s cause)
    (c : Opcode) (kind : SessionKind) (infl : Option Inflate) :
    beginFlash c kind infl p s = (discardSession s).failing c cause := by
  have hchecks : beginChecks (discardSession s).cfg (inFlash (discardSession s).cfg) p = some cause :=
    beginChecks_eq_some (s := s) (region := inFlash s.cfg) (by simpa only [inFlash_iff] using h)
  simp only [beginFlash, hchecks]
  exact fail_eq_failing (s := discardSession s) c cause hports

theorem execMemBegin_refused {cause : Failure} (hports : s.portsAnswer 1)
    (h : BeginRefused (fun a n => ramOk s.cfg a n = true) p s cause) (v : Word) :
    execMemBegin v p s = .next ((discardSession s).failing .memBegin cause) := by
  have hchecks : beginChecks (discardSession s).cfg (ramOk (discardSession s).cfg) p = some cause :=
    beginChecks_eq_some (s := s) h
  simp only [execMemBegin, hchecks]
  exact congrArg _ (fail_eq_failing (s := discardSession s) .memBegin cause hports)

/-- Settles O35: the three commands make one list of checks, after the session is dropped. -/
theorem refusedBeginLeavesNoSession : Obligations.RefusedBeginLeavesNoSession := by
  unfold Obligations.RefusedBeginLeavesNoSession
  intro v p s i c region hports hi cause (hcause : BeginRefused region p s cause)
  have hexec : exec i s = .next ((discardSession s).failing c cause) := by
    obtain ⟨rfl, rfl, rfl⟩ | ⟨rfl, rfl, rfl⟩ | ⟨rfl, rfl, rfl⟩ := hi
    · exact congrArg _ (beginFlash_refused hports hcause _ _ _)
    · exact congrArg _ (beginFlash_refused hports hcause _ _ _)
    · exact execMemBegin_refused hports hcause v
  exact ⟨_, hexec, rfl, rfl⟩

/-! ## The single-shot commands -/

theorem not_inFlash_iff {a n : Nat} : (!inFlash s.cfg a n) = true ↔ ¬InFlash s a n := by
  rw [← inFlash_iff, Bool.not_eq_true', Bool.not_eq_true]

section
variable (hports : s.portsAnswer 1) (v : Word)
include hports

theorem execReadFlash_badBlocksize (hlen : p.length = 16) (hin : InFlash s (wordAt p 0).toNat (wordAt p 1).toNat)
    (h : wordAt p 2 = 0 ∨ s.cfg.readPktMax < (wordAt p 2).toNat ∨ wordAt p 3 = 0) :
    exec (.readFlash v p) s = .next (s.failing .readFlash .badBlocksize) := by
  refine congrArg _ (check_passes (not_not.mpr hlen) (check_passes (mt not_inFlash_iff.mp (not_not.mpr hin)) ?_))
  by_cases hpkt : wordAt p 2 = 0 ∨ s.cfg.readPktMax < (wordAt p 2).toNat
  · exact check_refuses hports (by simpa [BitVec.toNat_eq] using hpkt)
  · have hinflight : wordAt p 3 = 0 := (or_assoc.mpr h).resolve_left hpkt
    exact check_passes (by simpa [BitVec.toNat_eq] using hpkt) (check_refuses hports (by rw [hinflight]; rfl))

theorem execEraseRegion_bounds (hlen : p.length = 8)
    (h : (wordAt p 0).toNat % s.cfg.sectorSize ≠ 0 ∨ (wordAt p 1).toNat % s.cfg.sectorSize ≠ 0
      ∨ ¬InFlash s (wordAt p 0).toNat (wordAt p 1).toNat) :
    exec (.eraseRegion v p) s = .next (s.failing .eraseRegion .bounds) := by
  refine congrArg _ (check_passes (not_not.mpr hlen) ?_)
  by_cases haligned : (wordAt p 0).toNat % s.cfg.sectorSize ≠ 0 ∨ (wordAt p 1).toNat % s.cfg.sectorSize ≠ 0
  · exact check_refuses hports (by simpa using haligned)
  · have hout := (or_assoc.mpr h).resolve_left haligned
    exact check_passes (by simpa using haligned) (check_refuses hports (not_inFlash_iff.mpr hout))

/-- One entry outside REG_ALLOW refuses the whole command (R272). -/
theorem execWriteReg_bounds (hlen : 16 ≤ p.length) (hmod : p.length % 16 = 0)
    (h : ∃ j, j < p.length / 16 ∧ inRegs s.cfg (wordAt p (4 * j)).toNat = false) :
    exec (.writeReg v p) s = .next (s.failing .writeReg .bounds) := by
  refine congrArg _ (check_passes (by simp; omega) (check_refuses hports ?_))
  obtain ⟨j, hj, hreg⟩ := h
  have hentry : regEntry p j ∈ regEntries p := List.mem_map.mpr ⟨j, List.mem_range.mpr hj, rfl⟩
  rw [Bool.not_eq_true', List.all_eq_false]
  exact ⟨_, hentry, by simp [regEntry, hreg]⟩

end

/-- Settles O48: the checks of each command in order. -/
theorem refusedSingleShotChangesNothing : Obligations.RefusedSingleShotChangesNothing := by
  unfold Obligations.RefusedSingleShotChangesNothing
  intro v p s hports
  refine ⟨fun hlen => ?_, fun hlen hout => ?_, execReadFlash_badBlocksize hports v, fun hlen => ?_, fun hlen => ?_,
    execEraseRegion_bounds hports v, fun hlen => ?_, fun hlen hout => ?_, fun hlen => ?_, fun hlen hreg => ?_,
    fun hlen => ?_, execWriteReg_bounds hports v, fun hlen => ?_, fun hlen huart => ?_, fun hlen huart hrate => ?_⟩
  -- READ_FLASH
  · exact congrArg _ (check_refuses hports hlen)
  · exact congrArg _ (check_passes (not_not.mpr hlen) (check_refuses hports (not_inFlash_iff.mpr hout)))
  -- ERASE_FLASH
  · exact congrArg _ (check_refuses hports hlen)
  -- ERASE_REGION
  · exact congrArg _ (check_refuses hports hlen)
  -- SPI_FLASH_MD5
  · exact congrArg _ (check_refuses hports hlen)
  · exact congrArg _ (check_passes (not_not.mpr hlen) (check_refuses hports (not_inFlash_iff.mpr hout)))
  -- READ_REG
  · exact congrArg _ (check_refuses hports hlen)
  · exact congrArg _ (check_passes (not_not.mpr hlen) (check_refuses hports (by rw [hreg]; rfl)))
  -- WRITE_REG
  · exact congrArg _ (check_refuses hports (by simpa using hlen))
  -- CHANGE_BAUDRATE
  · exact congrArg _ (check_refuses hports hlen)
  · exact congrArg _ (check_passes (not_not.mpr hlen) (check_refuses hports huart))
  · exact congrArg _ (check_passes (not_not.mpr hlen) (check_passes (not_not.mpr huart) (check_refuses hports hrate)))

end Sys2Proof.Machine
end

section
/-! SYNC, and the commands that open and close a session, where their checks pass and the ports answer (R200 to R203,
R209 to R214, R220, R221, R230, R235). -/

namespace Sys2Proof.Machine

variable {s : State} {p : List Byte}

/-! ## The range a BEGIN erases -/

theorem eraseRange_start_dvd (c : Config) (a n : Nat) : c.sectorSize ∣ (eraseRange c a n).1 := Nat.dvd_mul_left ..

@[simp] theorem eraseRange_zero_length (c : Config) (a : Nat) : (eraseRange c a 0).2 = 0 := rfl

section
variable {c : Config} (hok : c.ok = true)
include hok

theorem eraseRange_start_bounds (a n : Nat) :
    (eraseRange c a n).1 ≤ a ∧ a < (eraseRange c a n).1 + c.sectorSize :=
  ⟨Nat.div_mul_le_self .., Nat.lt_div_mul_add (sectorSize_pos hok)⟩

/-- The end of the range of a region that is not empty: the first sector boundary at or after the region's end. -/
theorem eraseRange_end_bounds {a n : Nat} (hpos : 0 < n) :
    c.sectorSize ∣ (eraseRange c a n).1 + (eraseRange c a n).2
      ∧ a + n ≤ (eraseRange c a n).1 + (eraseRange c a n).2
      ∧ (eraseRange c a n).1 + (eraseRange c a n).2 < a + n + c.sectorSize := by
  have hsec := sectorSize_pos hok
  have hstart := (eraseRange_start_bounds hok a n).1
  have hlow := Nat.lt_div_mul_add hsec (a := a + n + (c.sectorSize - 1))
  have hhigh := Nat.div_mul_le_self (a + n + (c.sectorSize - 1)) c.sectorSize
  have hend : (eraseRange c a n).1 + (eraseRange c a n).2
      = (a + n + (c.sectorSize - 1)) / c.sectorSize * c.sectorSize := by
    simp only [eraseRange, if_neg hpos.ne'] at hstart ⊢
    omega
  rw [hend]
  exact ⟨Nat.dvd_mul_left .., by omega, by omega⟩

end

/-- Settles O33: the start is rounded down and the end rounded up, and the flash is made of whole sectors. -/
theorem eraseRangeCoversSectors : Obligations.EraseRangeCoversSectors := by
  unfold Obligations.EraseRangeCoversSectors
  intro c a n hok hin
  have hstart := eraseRange_start_dvd c a n
  obtain ⟨hle, hlt⟩ := eraseRange_start_bounds hok a n
  refine ⟨hle, hlt, Nat.mod_eq_zero_of_dvd hstart, ?_⟩
  obtain rfl | hpos := n.eq_zero_or_pos
  · exact ⟨Nat.zero_mod _, by rw [eraseRange_zero_length]; omega, fun _ => rfl, fun h => absurd h (lt_irrefl 0)⟩
  · obtain ⟨hend, hcovers, htight⟩ := eraseRange_end_bounds hok (a := a) hpos
    have hflash := Nat.le_of_lt_add_of_dvd (b := c.flashSize) (by omega) hend (sectorSize_dvd_flashSize hok)
    exact ⟨Nat.mod_eq_zero_of_dvd ((Nat.dvd_add_right hstart).mp hend), hflash, fun h => absurd h hpos.ne',
      fun _ => ⟨hcovers, htight⟩⟩

/-! ## SYNC -/

/-- Settles O31: the session and the frame buffer are dropped, and the response leaves. -/
theorem syncDropsTheSession : Obligations.SyncDropsTheSession := by
  unfold Obligations.SyncDropsTheSession
  intro v p s hports
  have hack := ack_eq_acking (s := { discardSession s with fbuf := [] }) .sync hports
  exact ⟨_, congrArg Host.Outcome.next hack, rfl, rfl, rfl⟩

/-! ## The BEGINs -/

section
variable (kind : SessionKind) (infl : Option Inflate) (p : List Byte) (s : State)

theorem afterBegin_trace : (afterBegin kind infl p s).trace = s.trace
    ++ if 0 < (beginErase p s).2 then [.flashErase (beginErase p s).1 (beginErase p s).2 true] else [] :=
  afterFlash_trace ..

theorem afterBegin_draws : ((afterBegin kind infl p s).answers, (afterBegin kind infl p s).draws)
    = if 0 < (beginErase p s).2 then (s.answers.tail, s.draws + 1) else (s.answers, s.draws) :=
  afterFlash_draws ..

theorem afterBegin_flash_read (a : Nat) : (afterBegin kind infl p s).flash.read a
    = if (beginErase p s).1 ≤ a ∧ a < (beginErase p s).1 + (beginErase p s).2 then 0xFF else s.flash.read a :=
  afterFlash_erase_read _ _ _ (discardSession s) a

theorem afterBegin_frame : afterBegin kind infl p s =
    { s with sess := openedSession kind p s, infl := infl, flash := (afterBegin kind infl p s).flash,
             answers := (afterBegin kind infl p s).answers, draws := (afterBegin kind infl p s).draws,
             trace := (afterBegin kind infl p s).trace } := by
  have hframe : afterErase p s = _ := afterFlash_frame ..
  rw [afterBegin, hframe]
  rfl

end

/-- Settles O32: both commands run one rule, with the inflater of their kind of session. -/
theorem flashBeginsOpenASession : Obligations.FlashBeginsOpenASession := by
  unfold Obligations.FlashBeginsOpenASession
  intro v p s hp hports hans i kind c hi
  obtain ⟨infl, hexec, hflash, hdefl⟩ : ∃ infl, exec i s = .next (beginFlash c kind infl p s)
      ∧ (kind = .flash → infl = none) ∧ (kind = .defl → infl = some inflateInit) := by
    obtain ⟨rfl, rfl, rfl⟩ | ⟨rfl, rfl, rfl⟩ := hi
    · exact ⟨none, rfl, fun _ => rfl, nofun⟩
    · exact ⟨some inflateInit, rfl, nofun, fun _ => rfl⟩
  have hcfg : (afterBegin kind infl p s).cfg = s.cfg := afterErase_cfg p s
  have hsent : ((afterBegin kind infl p s).acking c).trace
      = (afterBegin kind infl p s).trace ++ [sent (okPacket (s.cfg.opcodes.code c))] := by rw [← hcfg]; rfl
  refine ⟨(afterBegin kind infl p s).acking c, ?_, rfl, hflash,
    fun hkind => ⟨inflateInit, hdefl hkind, rfl, rfl, rfl, rfl, rfl⟩, afterBegin_flash_read kind infl p s, ?_,
    afterBegin_draws kind infl p s, ?_⟩
  · rw [hexec, beginFlash_answered c kind infl hp hports hans]
  · rw [hsent, afterBegin_trace]
  · exact congrArg (State.sending · _) (afterBegin_frame kind infl p s)

/-- Settles O34: the checks pass, and no transaction comes before the response. -/
theorem memBeginOpensASession : Obligations.MemBeginOpensASession := by
  unfold Obligations.MemBeginOpensASession
  intro v p s hp hports
  have hchecks : beginChecks (discardSession s).cfg (ramOk (discardSession s).cfg) p = none :=
    (beginChecks_eq_none (ramOk s.cfg) p s).mpr hp
  have hack := ack_eq_acking (s := { s with sess := openedSession .mem p s, infl := none }) .memBegin hports
  rw [exec, execMemBegin]
  simp only [hchecks]
  exact congrArg _ hack

/-! ## The ENDs -/

/-- Where the ports answer, an END that passes its checks closes the session, responds, and goes on with `k`. -/
theorem respond_discard_answered (hports : s.portsAnswer 1) (c : Opcode) (k : Unit → State → State) :
    (respond c 0 [] (discardSession s)).andThen k = k () ((discardSession s).acking c) :=
  emit_andThen_answered (s := discardSession s) (portSilent_eq_false (s := s) hports) _ k

theorem endFlash_answered {kind : SessionKind} (c : Opcode) (hlen : p.length = 4) (hkind : s.sess.kind = kind)
    (hports : s.portsAnswer 1) :
    endFlash c kind p s = if wordAt p 0 = 0 then reboot ((discardSession s).acking c)
      else (discardSession s).acking c :=
  check_passes (not_not.mpr hlen) (check_passes (not_not.mpr hkind) (respond_discard_answered hports c _))

theorem endMem_answered (hlen : p.length = 8) (hkind : s.sess.kind = .mem) (hports : s.portsAnswer 1) :
    endMem p s = if wordAt p 0 = 0 then finish (wordAt p 1) ((discardSession s).acking .memEnd)
      else (discardSession s).acking .memEnd :=
  check_passes (not_not.mpr hlen) (check_passes (not_not.mpr hkind) (respond_discard_answered hports .memEnd _))

/-- Settles O41: both commands run one rule, which asks for the reset last. -/
theorem flashEndsCloseTheSession : Obligations.FlashEndsCloseTheSession := by
  unfold Obligations.FlashEndsCloseTheSession
  intro v p s i kind c hi hlen hkind hports
  have hexec : exec i s = .next (endFlash c kind p s) := by
    obtain ⟨rfl, rfl, rfl⟩ | ⟨rfl, rfl, rfl⟩ := hi <;> rfl
  rw [hexec, endFlash_answered c hlen hkind hports]
  refine ⟨_, rfl, ?_⟩
  split
  · refine ⟨rfl, rfl, fun hstay => absurd ‹_› hstay, fun _ => ?_⟩
    simp only [State.acking, State.sending, reboot, record, discardSession, List.append_assoc]
    rfl
  · exact ⟨rfl, rfl, fun _ => rfl, fun hstay => absurd hstay ‹_›⟩

/-- Settles O42: both commands run one rule, which hands control over last. -/
theorem memEndsCloseTheSession : Obligations.MemEndsCloseTheSession := by
  unfold Obligations.MemEndsCloseTheSession
  intro v p s hlen hkind hports
  have hend := endMem_answered hlen hkind hports
  refine ⟨fun hnoExec => ?_, fun hexec => ?_⟩
  · rw [if_neg hnoExec] at hend
    exact ⟨_, congrArg Host.Outcome.next hend, rfl, rfl⟩
  · rw [if_pos hexec] at hend
    refine ⟨_, congrArg Host.Outcome.next hend, rfl, ?_⟩
    simp only [State.acking, State.sending, finish, record, discardSession, List.append_assoc]
    rfl

end Sys2Proof.Machine
end

section
/-! The data commands that do not succeed: refused by one of the checks of R205, or, for FLASH_DEFL_DATA, aborted after
what may be written is written (R232 to R234). -/

namespace Sys2Proof.Machine

variable {s : State} {v : Word} {p : List Byte}

/-! ## The checks of R205 -/

theorem not_dataShape_iff : (p.length < 16 || p.length ≠ 16 + dataLen p) = true ↔ ¬DataShape p := by
  rw [Bool.or_eq_true, decide_eq_true_iff, decide_eq_true_iff, DataShape, not_and_or, not_le]
  rfl

/-- A data command whose checks fail answers with the failure and does nothing else. -/
theorem exec_of_dataChecks {i : Instr} {kind : SessionKind} {c : Opcode} {cause : Failure}
    (hi : IsDataCommand i v p kind c) (hports : s.portsAnswer 1) (hcause : dataChecks kind v p s = some cause) :
    exec i s = .next (s.failing c cause) := by
  rw [← fail_eq_failing c cause hports]
  obtain ⟨rfl, rfl, rfl⟩ | ⟨rfl, rfl, rfl⟩ | ⟨rfl, rfl, rfl⟩ := hi
  · simp only [exec, execFlashData, hcause]
  · simp only [exec, execMemData, hcause]
  · simp only [exec, execFlashDeflData, hcause]

/-- Settles O36: the chain of checks is passed up to the one that fails. -/
theorem refusedDataChangesNothing : Obligations.RefusedDataChangesNothing := by
  unfold Obligations.RefusedDataChangesNothing
  intro v p s i kind c hi hports
  have hrefused {cause : Failure} : dataChecks kind v p s = some cause → exec i s = .next (s.failing c cause) :=
    exec_of_dataChecks hi hports
  have hpass (hshape : DataShape p) : ¬(p.length < 16 || p.length ≠ 16 + dataLen p) = true :=
    mt not_dataShape_iff.mp (not_not.mpr hshape)
  refine ⟨fun hshape => hrefused ?_, fun hshape hkind => hrefused ?_, fun hshape hkind hsize => hrefused ?_,
    fun hshape hkind hsize hseq => hrefused ?_, fun hshape hkind hsize hseq hsum => hrefused ?_,
    fun hshape hkind hsize hseq hsum hdefl hpos hfull => hrefused ?_⟩
  · exact if_pos (not_dataShape_iff.mpr hshape)
  all_goals refine (if_neg (hpass hshape)).trans ?_
  · exact if_pos hkind
  all_goals refine (if_neg (not_not.mpr hkind)).trans ?_
  · exact if_pos hsize
  all_goals refine (if_neg (Nat.not_lt.mpr hsize)).trans ?_
  · exact if_pos hseq
  all_goals refine (if_neg (not_not.mpr hseq)).trans ?_
  · exact if_pos hsum
  · refine (if_neg (not_not.mpr hsum)).trans (if_pos ?_)
    simp [hdefl, hfull, dataLen, Nat.pos_of_ne_zero hpos]

/-! ## FLASH_DEFL_DATA aborted -/

/-- Why FLASH_DEFL_DATA aborts its session, when the inflater put out `out` and is then `st`: more output than there is
room for, or else an error in the stream (R232, R233, R342). -/
def DeflAborts (out : List Byte) (st : Inflate) (s : State) (cause : Failure) : Prop :=
  (s.sess.room < out.length ∧ cause = .tooMuchData)
    ∨ (out.length ≤ s.sess.room ∧ st.phase = .error ∧ cause = .inflateError)

/-- `s` after `b` is written and the session is dropped, whatever of it was counted before (R234; log 13). -/
def afterAbort (q : Session) (b : List Byte) (s : State) : State :=
  { afterWrite b s with sess := { q with kind := .none }, infl := none }

section
variable (q : Session) (b : List Byte) (s : State)

theorem afterAbort_frame : afterAbort q b s =
    { s with sess := (afterAbort q b s).sess, infl := none, flash := (afterAbort q b s).flash,
             answers := (afterAbort q b s).answers, draws := (afterAbort q b s).draws,
             trace := (afterAbort q b s).trace } := by
  have hframe : afterWrite b s = _ := afterFlash_frame ..
  rw [afterAbort, hframe]

theorem afterAbort_failing_trace (c : Opcode) (cause : Failure) : ((afterAbort q b s).failing c cause).trace
    = s.trace ++ (if 0 < b.length then [.flashWrite (writtenAt s) b true] else [])
      ++ [sent (failPacket (s.cfg.opcodes.code c) (cause.code s.cfg.errs))] := by
  have hcfg : (afterAbort q b s).cfg = s.cfg := afterFlash_cfg ..
  have htrace : (afterAbort q b s).trace = s.trace ++ _ := afterFlash_trace ..
  rw [State.failing, State.sending, hcfg, htrace]

theorem afterAbort_draws : ((afterAbort q b s).answers, (afterAbort q b s).draws)
    = if 0 < b.length then (s.answers.tail, s.draws + 1) else (s.answers, s.draws) := afterFlash_draws ..

end

/-- A write that is answered, after which the session is dropped and the failure sent. -/
theorem afterWrite_andThen_fail (c : Opcode) (cause : Failure) (b : List Byte) (q : State → Session)
    (hports : s.portsAnswer 2) (hans : 0 < b.length → nextAnswer s ≠ .fault) :
    ((if 0 < b.length then flashWrite (writtenAt s) b s else .ok () s).andThen fun _ w =>
        fail c cause { w with sess := { q w with kind := .none }, infl := none })
      = (afterAbort (q (afterWrite b s)) b s).failing c cause := by
  have hports' : (afterAbort (q (afterWrite b s)) b s).portsAnswer 1 := afterFlash_portsAnswer hports _ _ _
  rw [flashWrite_if_andThen hports hans]
  exact fail_eq_failing c cause hports'

theorem writeInflated_aborts {d out : List Byte} {st : Inflate} {cause : Failure} (h : DeflAborts out st s cause)
    (hports : s.portsAnswer 2) (hans : 0 < (out.take s.sess.room).length → nextAnswer s ≠ .fault) :
    ∃ q, writeInflated d out st s = (afterAbort q (out.take s.sess.room) s).failing .flashDeflData cause := by
  obtain ⟨hexcess, rfl⟩ | ⟨hfits, hphase, rfl⟩ := h
  · have hlen : (out.take s.sess.room).length = s.sess.room := List.length_take_of_le hexcess.le
    have hrun := afterWrite_andThen_fail .flashDeflData .tooMuchData (out.take s.sess.room) State.sess hports hans
    rw [hlen] at hrun
    exact ⟨_, (if_pos hexcess).trans hrun⟩
  · rw [List.take_of_length_le hfits] at hans ⊢
    have hstatus : st.status = .error := by rw [Inflate.status, hphase]
    have hrun := afterWrite_andThen_fail .flashDeflData .inflateError out
      (fun w => (advanceWritten out.length w).sess) hports hans
    rw [writeInflated, if_neg (Nat.not_lt.mpr hfits), hstatus]
    exact ⟨_, hrun⟩

theorem execFlashDeflData_aborts {st st' : Inflate} {out : List Byte} {cause : Failure}
    (hp : DataAccepted .defl v p s) (hs : s.sessionOk = true) (hst : s.infl = some st)
    (hfed : inflateFeed s.cfg.inflateWindow st (dataBytes p) = (out, st')) (h : DeflAborts out st' s cause)
    (hports : s.portsAnswer 2) (hans : 0 < (out.take s.sess.room).length → nextAnswer s ≠ .fault) :
    ∃ q, exec (.flashDeflData v p) s
      = .next ((afterAbort q (out.take s.sess.room) { s with infl := some st' }).failing .flashDeflData cause) := by
  obtain ⟨q, hq⟩ := writeInflated_aborts (s := { s with infl := some st' }) (d := dataBytes p) h hports hans
  refine ⟨q, ?_⟩
  rw [← hq, exec, execFlashDeflData]
  simp only [(dataChecks_eq_none _ _ _ _).mpr hp, hs, Bool.not_true, Bool.false_eq_true, if_false, hst, hfed]

theorem byteAt_take {b : List Byte} {n i : Nat} (hi : i < (b.take n).length) : byteAt (b.take n) i = byteAt b i := by
  rw [byteAt, byteAt, List.getD_eq_getElem?_getD, List.getD_eq_getElem?_getD,
    List.getElem?_take_of_lt (hi.trans_le (List.length_take_le ..))]

/-- Settles O40: the write that is allowed is made, and then the session dropped and the failure sent. -/
theorem deflDataAbortsAfterWriting : Obligations.DeflDataAbortsAfterWriting := by
  unfold Obligations.DeflDataAbortsAfterWriting
  intro v p s st st' out cause hp hs hwf hst hfed hcause hports hans
  obtain ⟨q, hexec⟩ := execFlashDeflData_aborts hp hs hst hfed hcause hports hans
  have hread := afterWrite_read (s := { s with infl := some st' }) hwf (out.take s.sess.room)
  refine ⟨_, hexec, rfl, rfl, fun a => (hread a).trans ?_, afterAbort_failing_trace .., afterAbort_draws q _ _,
    congrArg (State.sending · _) (afterAbort_frame ..)⟩
  refine if_ctx_congr Iff.rfl (fun hin => ?_) fun _ => rfl
  exact congrArg (s.flash.read a &&& ·) (byteAt_take (Nat.sub_lt_left_of_lt_add hin.1 hin.2))

end Sys2Proof.Machine
end

section
/-! What the commands make of the session and of its inflate state: the single-shot commands neither read nor write
them (R237), the session commands open, keep or drop them (R236). -/

namespace Sys2Proof.Machine

variable {s t u : State}

/-! ## Another session -/

/-- `s` with another session and inflate state in their place. -/
def withSession (q : Session) (x : Option Inflate) (s : State) : State := { s with sess := q, infl := x }

@[simp] theorem nextAnswer_withSession (q : Session) (x : Option Inflate) (s : State) :
    nextAnswer (withSession q x s) = nextAnswer s := rfl

/-- A rule that neither reads nor writes the session: with another one in its place it does the same. -/
def SessionBlind (f : State → State) : Prop := ∀ q x s, f (withSession q x s) = withSession q x (f s)

/-- A rule that goes on with such a rule after the transactions of `f` is one too. -/
def BlindPort {α : Type} (f : State → PortResult α) : Prop :=
  ∀ k : α → State → State, (∀ a, SessionBlind (k a)) → SessionBlind fun s => (f s).andThen k

/-- Given its own session again, a state is as it was: so the rule does not write the session either. -/
theorem SessionBlind.keeps {f : State → State} (h : SessionBlind f) (s : State) :
    (f s).sess = s.sess ∧ (f s).infl = s.infl := by
  have hself : f s = withSession s.sess s.infl (f s) := h s.sess s.infl s
  exact ⟨(congrArg State.sess hself :), (congrArg State.infl hself :)⟩

section
variable {f g : State → State}

/-- A rule may decide by anything but the session. -/
theorem SessionBlind.ite {P : State → Prop} [∀ s, Decidable (P s)] (hP : ∀ q x s, P (withSession q x s) ↔ P s)
    (hf : SessionBlind f) (hg : SessionBlind g) : SessionBlind fun s => if P s then f s else g s := fun q x s => by
  dsimp only
  rw [hf q x s, hg q x s, apply_ite (withSession q x)]
  exact if_congr (hP q x s) rfl rfl

end

section
variable {α β : Type}

theorem blindPort_ok (a : α) : BlindPort (.ok a) := fun _ hk => hk a

theorem BlindPort.bind {f : State → PortResult α} {g : α → State → PortResult β} (hf : BlindPort f)
    (hg : ∀ a, BlindPort (g a)) : BlindPort fun s => (f s).bind g := fun k hk => by
  simp only [PortResult.bind_andThen]
  exact hf _ fun a => hg a k hk

theorem BlindPort.ite {f g : State → PortResult α} {P : Prop} [Decidable P] (hf : BlindPort f) (hg : BlindPort g) :
    BlindPort fun s => if P then f s else g s := by
  split
  · exact hf
  · exact hg

/-- A transaction reads and writes what stands behind the ports, and waits where it is not answered. -/
theorem blindPort_request {q : PortRequest} {a : State → α} {v : State → State}
    (ha : ∀ y x s, a (withSession y x s) = a s) (hv : SessionBlind v) :
    BlindPort fun s => request q s (.ok (a s) (v s)) := fun k hk => by
  simp only [request_andThen, PortResult.andThen_ok]
  exact .ite (fun _ _ _ => Iff.rfl) (fun _ _ _ => rfl) fun y x s => by rw [ha, hv, hk]

/-- The same of a FLASH transaction, which may answer `Fault`. -/
theorem blindPort_of_flash {f : State → PortResult α} {q : PortRequest} {e : PortEvent} {a : State → α}
    {v : State → State}
    (hf : ∀ s k, (f s).andThen k = if portSilent s then unanswered q s
      else if nextAnswer s = .fault then raiseFatal .flashFault (record e (drawn s)) else k (a s) (v s))
    (ha : ∀ y x s, a (withSession y x s) = a s) (hv : SessionBlind v) : BlindPort f := fun k hk => by
  simp only [hf]
  exact .ite (fun _ _ _ => Iff.rfl) (fun _ _ _ => rfl) <| .ite (fun _ _ _ => Iff.rfl) (fun _ _ _ => rfl)
    fun y x s => by rw [ha, hv, hk]

end

/-! ## The ports -/

theorem flashErase_blindPort (a n : Nat) : BlindPort (flashErase a n) :=
  blindPort_of_flash (flashErase_andThen a n) (fun _ _ _ => rfl) fun _ _ _ => rfl

theorem flashEraseChip_blindPort : BlindPort flashEraseChip :=
  blindPort_of_flash flashEraseChip_andThen (fun _ _ _ => rfl) fun _ _ _ => rfl

theorem answerBytes_withSession (q : Session) (x : Option Inflate) (s : State) (a n : Nat) (y : Answer) :
    answerBytes (withSession q x s) a n y = answerBytes s a n y := by
  cases y <;> rfl

theorem answerWord_withSession (q : Session) (x : Option Inflate) (s : State) (a : Nat) (y : Answer) :
    answerWord (withSession q x s) a y = answerWord s a y := by
  cases y <;> rfl

theorem flashRead_blindPort (a n : Nat) : BlindPort (flashRead a n) :=
  blindPort_of_flash (flashRead_andThen a n) (fun _ _ _ => answerBytes_withSession ..) fun q x s => by
    rw [nextAnswer_withSession, answerBytes_withSession]
    rfl

theorem regRead_blindPort (a : Nat) : BlindPort (regRead a) :=
  blindPort_request (fun _ _ _ => answerWord_withSession ..) fun q x s => by
    rw [nextAnswer_withSession, answerWord_withSession]
    rfl

theorem regWrite_blindPort (a : Nat) (v : Word) : BlindPort (regWrite a v) :=
  blindPort_request (fun _ _ _ => rfl) fun _ _ _ => rfl

theorem delay_blindPort (us : Word) : BlindPort (delay us) := blindPort_request (fun _ _ _ => rfl) fun _ _ _ => rfl

theorem emit_blindPort (p : List Byte) : BlindPort (emit p) := blindPort_request (fun _ _ _ => rfl) fun _ _ _ => rfl

/-! ## Responses -/

theorem respond_blindPort (c : Opcode) (v : Word) (b : List Byte) : BlindPort (respond c v b) :=
  fun k hk q x s => emit_blindPort (successPacket (s.cfg.opcodes.code c) v b) k hk q x s

theorem sessionBlind_id : SessionBlind fun s => s := fun _ _ _ => rfl

theorem ack_sessionBlind (c : Opcode) : SessionBlind (ack c) := respond_blindPort c 0 [] _ fun _ => sessionBlind_id

theorem fail_sessionBlind (c : Opcode) (cause : Failure) : SessionBlind (fail c cause) := fun q x s =>
  emit_blindPort (failurePacket (s.cfg.opcodes.code c) (cause.code s.cfg.errs)) _ (fun _ => sessionBlind_id) q x s

/-- A check of the payload, the parameters or the transport, and the rest of the rule. -/
theorem check_sessionBlind {P : State → Prop} [∀ s, Decidable (P s)] {f : State → State} {c : Opcode} {cause : Failure}
    (hf : SessionBlind f) (hP : ∀ q x s, P (withSession q x s) ↔ P s := by exact fun _ _ _ => Iff.rfl) :
    SessionBlind fun s => if P s then fail c cause s else f s := .ite hP (fail_sessionBlind c cause) hf

/-! ## The single-shot commands -/

theorem digestFlash_blindPort (fuel a left : Nat) (c : Md5Context) : BlindPort (digestFlash fuel a left c) := by
  induction fuel generalizing a left c with
  | zero => exact blindPort_ok c
  | succ fuel ih =>
    have hrest (b : List Byte) : BlindPort fun s => digestFlash fuel (a + min s.cfg.sectorSize left)
        (left - min s.cfg.sectorSize left) (md5Update c b) s := fun k hk q x s => ih _ _ _ k hk q x s
    intro k hk q x s
    by_cases hleft : left = 0
    · simp only [digestFlash, if_pos hleft]
      exact hk c q x s
    · simp only [digestFlash, if_neg hleft]
      exact (flashRead_blindPort a (min s.cfg.sectorSize left)).bind hrest k hk q x s

theorem writeEntry_blindPort (e : RegEntry) : BlindPort (writeEntry e) :=
  .bind (.ite (regWrite_blindPort _ _) (.bind (regRead_blindPort _) fun _ => regWrite_blindPort _ _))
    fun _ => .ite (blindPort_ok ()) (delay_blindPort _)

theorem writeEntries_blindPort (es : List RegEntry) : BlindPort (writeEntries es) := by
  induction es with
  | nil => exact blindPort_ok ()
  | cons e es ih => exact (writeEntry_blindPort e).bind fun _ => ih

/-- A command all of whose rule is blind to the session. -/
def RunsSessionBlind (e : State → Host.Outcome State Fault Refusal) : Prop :=
  ∃ f, SessionBlind f ∧ ∀ s, e s = .next (f s)

section
variable (v : Word) (p : List Byte)

theorem execReadFlash_runsSessionBlind : RunsSessionBlind (execReadFlash v p) :=
  ⟨_, check_sessionBlind <| check_sessionBlind <| check_sessionBlind <| check_sessionBlind <|
    respond_blindPort _ _ _ _ fun _ _ _ _ => rfl, fun _ => rfl⟩

theorem execEraseFlash_runsSessionBlind : RunsSessionBlind (execEraseFlash v p) :=
  ⟨_, check_sessionBlind <| flashEraseChip_blindPort _ fun _ => ack_sessionBlind _, fun _ => rfl⟩

theorem execEraseRegion_runsSessionBlind : RunsSessionBlind (execEraseRegion v p) :=
  ⟨_, check_sessionBlind <| check_sessionBlind <| check_sessionBlind <|
    BlindPort.ite (flashErase_blindPort _ _) (blindPort_ok ()) _ fun _ => ack_sessionBlind _, fun _ => rfl⟩

theorem execSpiFlashMd5_runsSessionBlind : RunsSessionBlind (execSpiFlashMd5 v p) :=
  ⟨_, check_sessionBlind <| check_sessionBlind <|
    digestFlash_blindPort _ _ _ _ _ fun _ => respond_blindPort _ _ _ _ fun _ => sessionBlind_id, fun _ => rfl⟩

theorem execReadReg_runsSessionBlind : RunsSessionBlind (execReadReg v p) :=
  ⟨_, check_sessionBlind <| check_sessionBlind <|
    regRead_blindPort _ _ fun _ => respond_blindPort _ _ _ _ fun _ => sessionBlind_id, fun _ => rfl⟩

theorem execWriteReg_runsSessionBlind : RunsSessionBlind (execWriteReg v p) :=
  ⟨_, check_sessionBlind <| check_sessionBlind <| writeEntries_blindPort _ _ fun _ => ack_sessionBlind _, fun _ => rfl⟩

theorem execChangeBaudrate_runsSessionBlind : RunsSessionBlind (execChangeBaudrate v p) :=
  ⟨_, check_sessionBlind <| check_sessionBlind <| check_sessionBlind <|
    respond_blindPort _ _ _ _ fun _ _ _ _ => rfl, fun _ => rfl⟩

end

/-- The commands that are no part of a session (R237). -/
def SingleShot (i : Instr) (v : Word) (p : List Byte) : Prop :=
  i = .readFlash v p ∨ i = .eraseFlash v p ∨ i = .eraseRegion v p ∨ i = .spiFlashMd5 v p ∨ i = .readReg v p
    ∨ i = .writeReg v p ∨ i = .changeBaudrate v p

theorem SingleShot.runsSessionBlind {i : Instr} {v : Word} {p : List Byte} (h : SingleShot i v p) :
    RunsSessionBlind (exec i) := by
  obtain rfl | rfl | rfl | rfl | rfl | rfl | rfl := h
  · exact execReadFlash_runsSessionBlind v p
  · exact execEraseFlash_runsSessionBlind v p
  · exact execEraseRegion_runsSessionBlind v p
  · exact execSpiFlashMd5_runsSessionBlind v p
  · exact execReadReg_runsSessionBlind v p
  · exact execWriteReg_runsSessionBlind v p
  · exact execChangeBaudrate_runsSessionBlind v p

/-- Settles O45: each of the seven rules is blind to the session. -/
theorem singleShotCommandsIgnoreTheSession : Obligations.SingleShotCommandsIgnoreTheSession := by
  unfold Obligations.SingleShotCommandsIgnoreTheSession
  intro i v p s q x (hi : SingleShot i v p)
  obtain ⟨f, hf, hexec⟩ := hi.runsSessionBlind
  obtain ⟨hsess, hinfl⟩ := hf.keeps s
  exact ⟨f s, hexec s, hsess, hinfl, (hexec _).trans (congrArg _ (hf q x s))⟩

/-! ## One transaction and the session -/

/-- What becomes of the session in a transaction: where it is not answered, or faults, the rule ends with the session as
it was; where it is answered, the rule goes on with the session as it was. -/
theorem Asks.if_andThen_sess {Q : State → Prop} {P : Prop} [Decidable P] {q : PortRequest} {r : PortResult Unit}
    {k : Unit → State → State} (hr : Asks q u r) (hcut : ∀ t, t.sess = u.sess → Q t)
    (hk : ∀ v, SameButPorts u v → Q (k () v)) : Q ((if P then r else .ok () u).andThen k) := by
  split
  · cases hr with
    | silent => exact hcut _ rfl
    | fault => exact hcut _ rfl
    | ok a hv => exact hk _ hv.sameButPorts
  · exact hk u rfl

@[simp] theorem ack_sess (c : Opcode) (s : State) : (ack c s).sess = s.sess := by
  rw [ack_eq]
  split <;> rfl

@[simp] theorem fail_sess (c : Opcode) (cause : Failure) (s : State) : (fail c cause s).sess = s.sess := by
  rw [fail_eq]
  split <;> rfl

theorem respond_andThen_sess {k : Unit → State → State} (hk : ∀ v, (k () v).sess = v.sess) (c : Opcode) (x : Word)
    (b : List Byte) (s : State) : ((respond c x b s).andThen k).sess = s.sess := by
  rw [respond, emit_andThen]
  split
  · rfl
  · exact hk _

/-! ## The BEGINs -/

/-- What a BEGIN with opcode `c`, begun in `s`, may leave (R201, R202, R236): no session; or its own, with the success
response as the last thing done, unless that response never leaves. -/
def DropsOrOpens (c : Opcode) (kind : SessionKind) (s t : State) : Prop :=
  t.sess.kind = .none ∨ t.sess.kind = kind
    ∧ (t.waiting ≠ none ∨ t.trace.getLast? = some (sent (okPacket (s.cfg.opcodes.code c))))

theorem ack_dropsOrOpens {c : Opcode} (hcfg : u.cfg = s.cfg) : DropsOrOpens c u.sess.kind s (ack c u) := by
  refine .inr ⟨congrArg _ (ack_sess c u), ?_⟩
  rw [ack_eq, ← hcfg]
  split
  · exact .inl nofun
  · exact .inr List.getLast?_concat

theorem fail_dropsOrOpens (c : Opcode) (kind : SessionKind) (cause : Failure) (s : State) :
    DropsOrOpens c kind s (fail c cause (discardSession s)) := .inl (congrArg _ (fail_sess ..))

theorem beginFlash_dropsOrOpens (c : Opcode) (kind : SessionKind) (infl : Option Inflate) (p : List Byte) (s : State) :
    DropsOrOpens c kind s (beginFlash c kind infl p s) := by
  unfold beginFlash
  dsimp only
  split
  · exact fail_dropsOrOpens ..
  · exact (flashErase_asks ..).if_andThen_sess (fun _ ht => .inl (congrArg _ ht)) fun v hv =>
      ack_dropsOrOpens (u := { v with sess := _, infl := infl }) hv.cfg

theorem execMemBegin_dropsOrOpens {v : Word} {p : List Byte} (h : execMemBegin v p s = .next t) :
    DropsOrOpens .memBegin .mem s t := by
  cases h
  dsimp only
  split
  · exact fail_dropsOrOpens ..
  · exact ack_dropsOrOpens (u := { discardSession s with sess := _ }) rfl

/-! ## The data commands -/

/-- Bytes accepted leave the kind of the session as it was. -/
theorem dataWrite_kind {P : Prop} [Decidable P] {q : PortRequest} {r : PortResult Unit} (hr : Asks q u r) (c : Opcode)
    (n : Nat) (d : List Byte) :
    ((if P then r else .ok () u).andThen fun _ w => ack c (accept n d w)).sess.kind = u.sess.kind := by
  refine hr.if_andThen_sess (fun _ ht => congrArg _ ht) fun v hv => ?_
  rw [ack_sess, accept_sess, hv.sess]

theorem execFlashData_kind {v : Word} {p : List Byte} (h : execFlashData v p s = .next t) :
    t.sess.kind = s.sess.kind := by
  cases h
  split
  · exact congrArg _ (fail_sess ..)
  split
  · rfl
  · exact dataWrite_kind (flashWrite_asks ..) _ _ _

theorem execMemData_kind {v : Word} {p : List Byte} (h : execMemData v p s = .next t) :
    t.sess.kind = s.sess.kind := by
  cases h
  split
  · exact congrArg _ (fail_sess ..)
  split
  · rfl
  · exact dataWrite_kind (memWrite_asks ..) _ _ _

/-- What a command may leave that closes sessions of one kind: the kind there was, or none where there was that one. -/
def KeepsOrCloses (kind : SessionKind) (s t : State) : Prop :=
  t.sess.kind = s.sess.kind ∨ s.sess.kind = kind ∧ t.sess.kind = .none

theorem KeepsOrCloses.of_sess {kind : SessionKind} (h : t.sess = s.sess) : KeepsOrCloses kind s t :=
  .inl (congrArg _ h)

theorem fail_keepsOrCloses (kind : SessionKind) (c : Opcode) (cause : Failure) (s : State) :
    KeepsOrCloses kind s (fail c cause s) := .of_sess (fail_sess ..)

theorem writeInflated_keepsOrCloses (d out : List Byte) (st : Inflate) (hkind : u.sess.kind = .defl) :
    KeepsOrCloses .defl u (writeInflated d out st u) := by
  have haborts (cause : Failure) (w : State) :
      KeepsOrCloses .defl u (fail .flashDeflData cause (discardSession w)) :=
    .inr ⟨hkind, congrArg _ (fail_sess ..)⟩
  unfold writeInflated
  split
  · exact (flashWrite_asks ..).if_andThen_sess (fun _ => .of_sess) fun v _ => haborts _ v
  · refine (flashWrite_asks ..).if_andThen_sess (fun _ => .of_sess) fun v hv => ?_
    split
    · exact haborts ..
    · exact .inl (by rw [ack_sess, accept_sess, hv.sess])

theorem execFlashDeflData_keepsOrCloses {v : Word} {p : List Byte} (h : execFlashDeflData v p s = .next t) :
    KeepsOrCloses .defl s t := by
  cases h
  split
  · exact fail_keepsOrCloses ..
  · have hp := (dataChecks_eq_none _ _ _ _).mp ‹_›
    split
    · exact .inl rfl
    split
    · exact .inl rfl
    · exact writeInflated_keepsOrCloses (u := { s with infl := some _ }) _ _ _ hp.session

/-! ## The ENDs -/

theorem endFlash_keepsOrCloses (c : Opcode) (kind : SessionKind) (p : List Byte) (s : State) :
    KeepsOrCloses kind s (endFlash c kind p s) := by
  unfold endFlash
  split
  · exact fail_keepsOrCloses ..
  split
  · exact fail_keepsOrCloses ..
  · refine .inr ⟨not_not.mp ‹_›, congrArg _ (respond_andThen_sess (fun v => ?_) _ _ _ _)⟩
    split <;> rfl

theorem endMem_keepsOrCloses (p : List Byte) (s : State) : KeepsOrCloses .mem s (endMem p s) := by
  unfold endMem
  split
  · exact fail_keepsOrCloses ..
  split
  · exact fail_keepsOrCloses ..
  · refine .inr ⟨not_not.mp ‹_›, congrArg _ (respond_andThen_sess (fun v => ?_) _ _ _ _)⟩
    split <;> rfl

/-- Settles O44: one clause for each row of R236. -/
theorem sessionTransitions : Obligations.SessionTransitions := by
  unfold Obligations.SessionTransitions
  intro i s
  obtain ⟨t, ht⟩ := exec_next i s
  refine ⟨t, ht, fun v p hi => ?_, fun v p hi => ?_, fun v p hi => ?_, fun v p hi => ?_, fun v p hi => ?_,
    fun v p hi => ?_, fun v p hi => ?_, fun v p hi => ?_, fun v p hi => ?_, fun v p (hi : SingleShot i v p) => ?_⟩
  -- SYNC
  · subst hi; cases ht
    exact congrArg _ (ack_sess ..)
  -- the BEGINs
  · subst hi; cases ht
    exact beginFlash_dropsOrOpens ..
  · subst hi
    exact execMemBegin_dropsOrOpens (v := v) ht
  · subst hi; cases ht
    exact beginFlash_dropsOrOpens ..
  -- the data commands
  · obtain rfl | rfl := hi
    · exact execFlashData_kind ht
    · exact execMemData_kind ht
  · subst hi
    exact execFlashDeflData_keepsOrCloses ht
  -- the ENDs
  · subst hi; cases ht
    exact endFlash_keepsOrCloses ..
  · subst hi; cases ht
    exact endFlash_keepsOrCloses ..
  · obtain rfl | rfl := hi <;> cases ht <;> exact endMem_keepsOrCloses ..
  -- the single-shot commands
  · obtain ⟨f, hf, hexec⟩ := hi.runsSessionBlind
    cases ht.symm.trans (hexec s)
    exact congrArg _ (hf.keeps s).1

end Sys2Proof.Machine
end

section
/-! READ_FLASH and the stream it opens (R250 to R255), and CHANGE_BAUDRATE (R275, R276), where their checks pass and the
ports answer. -/

namespace Sys2Proof.Machine

variable {s : State} {p : List Byte}

/-! ## READ_FLASH -/

/-- Where the ports answer, a response without a body is sent before the rule goes on with `k` (R189). -/
theorem respond_andThen_answered (hports : s.portsAnswer 1) (c : Opcode) (k : Unit → State → State) :
    (respond c 0 [] s).andThen k = k () (s.acking c) :=
  emit_andThen_answered (portSilent_eq_false hports) _ k

/-- Settles O47: the checks pass, and the stream is opened after the response. -/
theorem readFlashOpensTheStream : Obligations.ReadFlashOpensTheStream := by
  unfold Obligations.ReadFlashOpensTheStream
  intro v p s hlen hin hpkt hmax hinflight hports
  have hpktOk : ¬(decide ((wordAt p 2).toNat = 0) || decide (s.cfg.readPktMax < (wordAt p 2).toNat)) = true := by
    simp only [Bool.or_eq_true, decide_eq_true_eq]
    omega
  have hinflightOk : (wordAt p 3).toNat ≠ 0 := fun h => hinflight (BitVec.eq_of_toNat_eq h)
  exact congrArg _ <| check_passes (not_not.mpr hlen) <| check_passes (mt not_inFlash_iff.mp (not_not.mpr hin)) <|
    check_passes hpktOk <| check_passes hinflightOk <| respond_andThen_answered hports .readFlash _

/-! ## The stream -/

/-- Where the ports answer, the end of a stream is the digest frame and mode CMD (R255). -/
theorem streamEnd_answered (hports : s.portsAnswer 1) (r : ReadStream) :
    streamEnd r s = { s.sending (md5Final r.md5) with rs := none, mode := .cmd } :=
  emit_andThen_answered (portSilent_eq_false hports) (md5Final r.md5) _

/-- A stream all of which is acknowledged ends, whatever waits in the queue (R253). -/
theorem streamStep_of_acked {r : ReadStream} (hrs : s.rs = some r) (hr : r.ok s.cfg = true) (hacked : r.acked = r.len) :
    streamStep s = .next (streamEnd r s) := by
  simp only [streamStep, hrs, hr, hacked, Bool.not_true, Bool.false_eq_true, if_false, if_true]

/-- Settles O51: the end of the stream is looked at first. -/
theorem streamEndsWithTheDigest : Obligations.StreamEndsWithTheDigest := by
  unfold Obligations.StreamEndsWithTheDigest
  intro s r hok hmain hm hrs hr hacked hports
  rw [step_main hok hmain, modeStep_stream (s := { s with inbox := s.inbox.tail }) hm,
    streamStep_of_acked (s := { s with inbox := s.inbox.tail }) hrs hr hacked,
    streamEnd_answered (s := { s with inbox := s.inbox.tail }) hports]
  rfl

/-- A frame that ends where the stream reads is an acknowledgement, or ends the stream (R159, R254). -/
theorem State.AtFrameEnd.step_eq_ackFrame {f rest : List Byte} {r : ReadStream} (h : s.AtFrameEnd f rest)
    (hreads : r.Reads s) : step s = .next (ackFrame f r (s.afterFrame rest)) := by
  have hmode : (s.afterFrame rest).mode = .stream := hreads.mode
  have hstream : (s.afterFrame rest).rs = some r := hreads.stream
  rw [h.step_eq_deliver (.inr ⟨r, hreads⟩)]
  simp only [deliver, hmode, hstream]

/-- Settles O50: the three branches of the rule for a frame. -/
theorem acknowledgementsAreHandled : Obligations.AcknowledgementsAreHandled := by
  unfold Obligations.AcknowledgementsAreHandled
  intro s f rest r hend hreads hports
  rw [hend.step_eq_ackFrame hreads]
  refine ⟨fun hempty => ?_, fun hlen hlow hhigh => ?_, fun hne hnot => ?_⟩
  · rw [ackFrame, if_pos (List.length_eq_zero_iff.mpr hempty)]
  · rw [ackFrame, if_neg (by omega), if_pos (by simp [hlen, hlow, hhigh])]
  · have hlength : f.length ≠ 0 := mt List.length_eq_zero_iff.mp hne
    rw [ackFrame, if_neg hlength, if_neg (by simpa [and_assoc] using hnot),
      streamEnd_answered (s := s.afterFrame rest) hports]
    rfl

/-! ## CHANGE_BAUDRATE -/

/-- Settles O56: the checks pass, and the signal comes after the response. -/
theorem changeBaudrateSignalsAfterResponding : Obligations.ChangeBaudrateSignalsAfterResponding := by
  unfold Obligations.ChangeBaudrateSignalsAfterResponding
  intro v p s hlen huart hrate hports
  have hexec : exec (.changeBaudrate v p) s = .next (record (.baud (wordAt p 0)) (s.acking .changeBaudrate)) :=
    congrArg _ <| check_passes (not_not.mpr hlen) <| check_passes (not_not.mpr huart) <| check_passes hrate <|
      respond_andThen_answered hports .changeBaudrate _
  rw [hexec]
  simp only [record, State.acking, State.sending, List.append_assoc, List.singleton_append]

end Sys2Proof.Machine
end

section
/-! WRITE_REG where its checks pass and the ports answer (R272, R273). One entry is one change of the state, given the
answer to its read; `registerWrites` is these changes in a row, and what the registers then hold is read off it. -/

namespace Sys2Proof.Machine

variable {s t : State} {p : List Byte} {regs : Store 32 0} {n j k : Nat}

/-! ## One entry -/

section
variable (e : RegEntry) (regs : Store 32 0) (x : Answer)

/-- The word that the read of a masked entry gives, when its answer is `x`. -/
def RegEntry.old : Word :=
  match x with
  | .word v => v
  | _ => regs.read e.addr.toNat

/-- The word an entry writes: its value under its mask. -/
def RegEntry.new : Word :=
  if e.mask = 0xFFFFFFFF then e.value else (e.old regs x &&& ~~~e.mask) ||| (e.value &&& e.mask)

/-- How many answers an entry draws. -/
def RegEntry.draws : Nat := if e.mask = 0xFFFFFFFF then 0 else 1

/-- The transactions of an entry. -/
def RegEntry.events : List PortEvent :=
  (if e.mask = 0xFFFFFFFF then [] else [.regRead e.addr.toNat (e.old regs x)])
    ++ [.regWrite e.addr.toNat (e.new regs x)] ++ (if e.delay = 0 then [] else [.delay e.delay])

theorem RegEntry.old_eq_answerWord (s : State) : e.old s.regs x = answerWord s e.addr.toNat x := by
  cases x <;> rfl

theorem RegEntry.events_length_le : (e.events regs x).length ≤ 3 := by
  unfold RegEntry.events
  split <;> split <;> simp

end

section
variable {e : RegEntry} (regs : Store 32 0) (x : Answer)

theorem RegEntry.new_of_direct (h : e.mask = 0xFFFFFFFF) : e.new regs x = e.value := if_pos h

theorem RegEntry.new_of_masked (h : e.mask ≠ 0xFFFFFFFF) :
    e.new regs x = (e.old regs x &&& ~~~e.mask) ||| (e.value &&& e.mask) := if_neg h

theorem RegEntry.draws_of_direct (h : e.mask = 0xFFFFFFFF) : e.draws = 0 := if_pos h

theorem RegEntry.draws_of_masked (h : e.mask ≠ 0xFFFFFFFF) : e.draws = 1 := if_neg h

theorem RegEntry.events_of_direct (h : e.mask = 0xFFFFFFFF) : e.events regs x
    = [.regWrite e.addr.toNat e.value] ++ (if e.delay = 0 then [] else [.delay e.delay]) := by
  rw [RegEntry.events, if_pos h, RegEntry.new_of_direct regs x h, List.nil_append]

theorem RegEntry.events_of_masked (h : e.mask ≠ 0xFFFFFFFF) : e.events regs x
    = [.regRead e.addr.toNat (e.old regs x), .regWrite e.addr.toNat (e.new regs x)]
      ++ (if e.delay = 0 then [] else [.delay e.delay]) := by
  rw [RegEntry.events, if_neg h, List.singleton_append]

end

/-- `s` after one entry of WRITE_REG, all of whose transactions are answered. -/
def afterEntry (e : RegEntry) (s : State) : State :=
  { s with
    regs := s.regs.write e.addr.toNat (e.new s.regs (nextAnswer s))
    answers := s.answers.drop e.draws
    draws := s.draws + e.draws
    trace := s.trace ++ e.events s.regs (nextAnswer s) }

theorem request_answered {α : Type} (hport : portSilent s = false) (q : PortRequest) (r : PortResult α) :
    request q s r = r := by
  rw [request, hport, if_neg Bool.false_ne_true]

/-- Where the ports answer, a register is written, and then the delay runs if there is one (R273). -/
theorem regWrite_delay_answered (hports : s.portsAnswer 2) (a : Nat) (w us : Word) :
    (regWrite a w s).bind (fun _ s => if us = 0 then .ok () s else delay us s)
      = .ok () { s with
          regs := s.regs.write a w
          trace := s.trace ++ [.regWrite a w] ++ if us = 0 then [] else [.delay us] } := by
  have hdelay : portSilent (record (.regWrite a w) { s with regs := s.regs.write a w }) = false :=
    portSilent_eq_false (k := 0) (portsAnswer_after hports (record_trace ..) rfl)
  rw [regWrite, request_answered (portSilent_eq_false hports), PortResult.bind_ok]
  split
  · rw [List.append_nil]; rfl
  · exact request_answered hdelay _ _

/-- Where the ports answer, an entry is its read if its mask asks for one, its write, and its delay if it has one. -/
theorem writeEntry_answered (hports : s.portsAnswer 3) (e : RegEntry) : writeEntry e s = .ok () (afterEntry e s) := by
  unfold writeEntry
  by_cases hmask : e.mask = 0xFFFFFFFF
  · rw [if_pos hmask, regWrite_delay_answered (portsAnswer_le hports (by omega))]
    simp [afterEntry, RegEntry.new_of_direct _ _ hmask, RegEntry.draws_of_direct hmask,
      RegEntry.events_of_direct _ _ hmask]
  · have hread : (record (.regRead e.addr.toNat (answerWord s e.addr.toNat (nextAnswer s))) (drawn s)).portsAnswer 2 :=
      portsAnswer_after hports (record_trace ..) rfl
    rw [if_neg hmask, regRead, request_answered (portSilent_eq_false hports), PortResult.bind_ok,
      regWrite_delay_answered hread]
    simp [afterEntry, RegEntry.new_of_masked _ _ hmask, RegEntry.draws_of_masked hmask,
      RegEntry.events_of_masked _ _ hmask, RegEntry.old_eq_answerWord, record, drawn]

theorem afterEntry_portsAnswer (hports : s.portsAnswer (k + 3)) (e : RegEntry) : (afterEntry e s).portsAnswer k := by
  have hlen := e.events_length_le s.regs (nextAnswer s)
  exact portsAnswer_of_append hports rfl rfl (by omega)

/-! ## The entries in a row -/

@[simp] theorem registerWrites_zero (s : State) (p : List Byte) (j : Nat) (regs : Store 32 0) (k : Nat) :
    registerWrites s p 0 j regs k = (regs, k, []) := rfl

/-- The first entry comes before the others, which find what it left. -/
theorem registerWrites_succ (s : State) (p : List Byte) (n j : Nat) (regs : Store 32 0) (k : Nat) :
    let e := regEntry p j
    let x := answerAt s k
    let r := registerWrites s p n (j + 1) (regs.write e.addr.toNat (e.new regs x)) (k + e.draws)
    registerWrites s p (n + 1) j regs k = (r.1, r.2.1, e.events regs x ++ r.2.2) := by
  intro e x r
  by_cases hmask : e.mask = 0xFFFFFFFF
  · have hmask' : ¬wordAt p (4 * j + 2) ≠ 0xFFFFFFFF := not_not.mpr hmask
    simp only [registerWrites, if_neg hmask', r, RegEntry.new_of_direct _ _ hmask, RegEntry.draws_of_direct hmask,
      RegEntry.events_of_direct _ _ hmask]
    rfl
  · have hmask' : wordAt p (4 * j + 2) ≠ 0xFFFFFFFF := hmask
    simp only [registerWrites, if_pos hmask', r, RegEntry.new_of_masked _ _ hmask, RegEntry.draws_of_masked hmask,
      RegEntry.events_of_masked _ _ hmask]
    rfl

/-- An entry has at most a read, a write and a delay. -/
theorem registerWrites_events_length_le (s : State) (p : List Byte) (n j : Nat) (regs : Store 32 0) (k : Nat) :
    (registerWrites s p n j regs k).2.2.length ≤ 3 * n := by
  induction n generalizing j regs k with
  | zero => exact Nat.le_refl 0
  | succ n ih =>
    rw [registerWrites_succ, List.length_append]
    have hfirst := (regEntry p j).events_length_le regs (answerAt s k)
    have hrest := ih (j + 1) (regs.write (regEntry p j).addr.toNat ((regEntry p j).new regs (answerAt s k)))
      (k + (regEntry p j).draws)
    omega

/-- `t` after the entries that `registerWrites` followed from `t` on, its answers counted from `s`. -/
def afterWrites (r : Store 32 0 × Nat × List PortEvent) (s t : State) : State :=
  { t with regs := r.1, answers := s.answers.drop r.2.1, draws := s.draws + r.2.1, trace := t.trace ++ r.2.2 }

/-- Where the ports answer, the entries from the j-th on do what `registerWrites` says, in a state that has drawn k of
the answers of `s` (R272). -/
theorem writeEntries_answered (hanswers : t.answers = s.answers.drop k) (hdraws : t.draws = s.draws + k)
    (hports : t.portsAnswer (3 * n)) :
    writeEntries ((List.range' j n).map (regEntry p)) t
      = .ok () (afterWrites (registerWrites s p n j t.regs k) s t) := by
  induction n generalizing j k t with
  | zero => simp [writeEntries, afterWrites, ← hanswers, ← hdraws]
  | succ n ih =>
    have hnext : nextAnswer t = answerAt s k := by
      rw [nextAnswer_eq_answerAt, answerAt_of_drop hanswers hdraws, Nat.add_zero]
    have hrest := ih (t := afterEntry (regEntry p j) t) (j := j + 1) (k := k + (regEntry p j).draws)
      (by simp [afterEntry, hanswers]) (by simp [afterEntry, hdraws, Nat.add_assoc])
      (afterEntry_portsAnswer hports _)
    rw [List.range'_succ, List.map_cons, writeEntries, writeEntry_answered (portsAnswer_le hports (by omega)),
      PortResult.bind_ok, hrest, registerWrites_succ]
    simp [afterWrites, afterEntry, hnext]

/-! ## What the registers then hold -/

/-- A register that no entry names is as it was. -/
theorem registerWrites_read_of_forall_ne (s : State) {a : Nat} (hwf : regs.wf = true)
    (h : ∀ i, j ≤ i → i < j + n → (wordAt p (4 * i)).toNat ≠ a) :
    (registerWrites s p n j regs k).1.read a = regs.read a := by
  induction n generalizing j regs k with
  | zero => rfl
  | succ n ih =>
    rw [registerWrites_succ]
    dsimp only
    rw [ih (Store.wf_write hwf _ _) fun i hi hi' => h i (by omega) (by omega), Store.read_write hwf]
    exact if_neg (h j (by omega) (by omega)).symm

/-- Where all masks are all ones nothing is read. -/
theorem registerWrites_draws_of_direct (s : State)
    (h : ∀ i, j ≤ i → i < j + n → wordAt p (4 * i + 2) = 0xFFFFFFFF) :
    (registerWrites s p n j regs k).2.1 = k := by
  induction n generalizing j regs k with
  | zero => rfl
  | succ n ih =>
    rw [registerWrites_succ, RegEntry.draws_of_direct (h j (by omega) (by omega))]
    exact ih fun i hi hi' => h i (by omega) (by omega)

/-- The register of a direct entry holds its value, where no later entry names it. -/
theorem registerWrites_read_of_last (s : State) {i : Nat} (hwf : regs.wf = true) (hlow : j ≤ i) (hhigh : i < j + n)
    (hmask : wordAt p (4 * i + 2) = 0xFFFFFFFF)
    (hlast : ∀ l, i < l → l < j + n → wordAt p (4 * l) ≠ wordAt p (4 * i)) :
    (registerWrites s p n j regs k).1.read (wordAt p (4 * i)).toNat = wordAt p (4 * i + 1) := by
  induction n generalizing j regs k with
  | zero => omega
  | succ n ih =>
    have hwf' := Store.wf_write hwf (regEntry p j).addr.toNat ((regEntry p j).new regs (answerAt s k))
    rw [registerWrites_succ]
    dsimp only
    obtain rfl | hlater := hlow.eq_or_lt
    · rw [registerWrites_read_of_forall_ne s hwf' fun l hl hl' heq =>
        hlast l (by omega) (by omega) (BitVec.eq_of_toNat_eq heq), Store.read_write hwf,
        RegEntry.new_of_direct _ _ hmask]
      exact if_pos rfl
    · exact ih hwf' (by omega) (by omega) fun l hl hl' => hlast l hl (by omega)

/-! ## The command -/

/-- Where its entries pass and the ports answer, WRITE_REG runs them and responds (R272). -/
theorem execWriteReg_answered (v : Word) (hlen : 16 ≤ p.length) (hmod : p.length % 16 = 0)
    (hregs : ∀ j, j < p.length / 16 → inRegs s.cfg (wordAt p (4 * j)).toNat = true)
    (hports : s.portsAnswer (3 * (p.length / 16) + 1)) :
    exec (.writeReg v p) s
      = .next ((afterWrites (registerWrites s p (p.length / 16) 0 s.regs 0) s s).acking .writeReg) := by
  have hentries : ¬(!(regEntries p).all fun e => inRegs s.cfg e.addr.toNat) = true := by
    simpa [regEntries, regEntry] using hregs
  have hrun : writeEntries (regEntries p) s
      = .ok () (afterWrites (registerWrites s p (p.length / 16) 0 s.regs 0) s s) := by
    rw [regEntries, List.range_eq_range']
    exact writeEntries_answered rfl rfl (portsAnswer_le hports (by omega))
  have hsend : (afterWrites (registerWrites s p (p.length / 16) 0 s.regs 0) s s).portsAnswer 1 :=
    portsAnswer_of_append hports rfl rfl (Nat.add_le_add_right (registerWrites_events_length_le ..) 1)
  refine congrArg _ (check_passes (by simp; omega) (check_passes hentries ?_))
  rw [hrun, PortResult.andThen_ok, ack_eq_acking _ hsend]

/-- Settles O55: the run of the entries, and what the registers hold after it. -/
theorem writeRegWritesItsEntries : Obligations.WriteRegWritesItsEntries := by
  unfold Obligations.WriteRegWritesItsEntries
  intro v p s hwf hlen hmod hregs hports r
  refine ⟨execWriteReg_answered v hlen hmod hregs hports,
    fun a hne => registerWrites_read_of_forall_ne s hwf fun i _ hi => hne i (by omega),
    fun hdirect => ⟨registerWrites_draws_of_direct s fun i _ hi => hdirect i (by omega), fun j hj hlast => ?_⟩,
    fun hone => ?_⟩
  · exact registerWrites_read_of_last s hwf (Nat.zero_le j) (by omega) (hdirect j hj)
      fun l hl hl' => hlast l hl (by omega)
  intro a old new
  have hold : (regEntry p 0).old s.regs (answerAt s 0) = old := by
    rw [RegEntry.old_eq_answerWord, ← nextAnswer_eq_answerAt]; rfl
  have hnew : (regEntry p 0).new s.regs (answerAt s 0) = new := by rw [RegEntry.new, hold]; rfl
  have hr : r = (s.regs.write a new, (regEntry p 0).draws, (regEntry p 0).events s.regs (answerAt s 0)) := by
    simp only [r, hone]
    rw [registerWrites_succ, registerWrites_zero, hnew, List.append_nil, Nat.zero_add]
    rfl
  rw [hr]
  refine ⟨by rw [Store.read_write hwf, if_pos rfl], ?_⟩
  rw [RegEntry.events, hold, hnew]
  rfl

end Sys2Proof.Machine
end

section
/-! The data checksum and the digest as functions of a byte string (R292, R305). A checksum changes by exactly the bits
that change in its input, which is what it detects and what it does not; the digest of pieces is a lemma of the section
on SPI_FLASH_MD5. -/

namespace Sys2Proof.Machine

/-! ## The exclusive or of the bytes of a string -/

theorem xorBytes_cons (y : Byte) (d : List Byte) : xorBytes (y :: d) = y ^^^ xorBytes d := by
  have hone : xorBytes [y] = y := BitVec.zero_xor
  rw [← List.singleton_append, xorBytes_append, hone]

theorem xorBytes_perm {a b : List Byte} (h : a.Perm b) : xorBytes a = xorBytes b :=
  h.foldl_eq' (fun x _ y _ acc => by rw [BitVec.xor_assoc, BitVec.xor_comm x, ← BitVec.xor_assoc]) 0

/-- Only the bits in which the old and the new byte differ change. -/
theorem xorBytes_set {a : List Byte} {k : Nat} (hk : k < a.length) (x : Byte) :
    xorBytes (a.set k x) = xorBytes a ^^^ (byteAt a k ^^^ x) := by
  induction a generalizing k with
  | nil => exact absurd hk (Nat.not_lt_zero k)
  | cons y d ih =>
    cases k with
    | zero =>
      rw [List.set_cons_zero, xorBytes_cons, xorBytes_cons, byteAt, List.getD_cons_zero, BitVec.xor_comm y (xorBytes d),
        BitVec.xor_assoc, ← BitVec.xor_assoc y, BitVec.xor_self, BitVec.zero_xor, BitVec.xor_comm]
    | succ k =>
      rw [List.set_cons_succ, xorBytes_cons, xorBytes_cons, ih (Nat.lt_of_succ_lt_succ hk), BitVec.xor_assoc, byteAt,
        byteAt, List.getD_cons_succ]

/-! ## The checksum -/

theorem csum_append (seed : Byte) (a b : List Byte) : csum seed (a ++ b) = csum seed a ^^^ xorBytes b := by
  rw [csum, csum, xorBytes_append, BitVec.xor_assoc]

theorem csum_xor_seed (seed : Byte) (d : List Byte) : csum seed d ^^^ seed = xorBytes d := by
  rw [csum, BitVec.xor_comm seed, BitVec.xor_assoc, BitVec.xor_self, BitVec.xor_zero]

theorem csum_set (seed : Byte) {a : List Byte} {k : Nat} (hk : k < a.length) (x : Byte) :
    csum seed (a.set k x) = csum seed a ^^^ (byteAt a k ^^^ x) := by
  rw [csum, csum, xorBytes_set hk, BitVec.xor_assoc]

/-- Bits flipped in a byte of the string are flipped in its checksum, whichever byte it is. -/
theorem csum_set_xor (seed : Byte) {a : List Byte} {k : Nat} (hk : k < a.length) (x : Byte) :
    csum seed (a.set k (byteAt a k ^^^ x)) = csum seed a ^^^ x := by
  rw [csum_set seed hk, ← BitVec.xor_assoc (byteAt a k), BitVec.xor_self, BitVec.zero_xor]

theorem csum_set_ne (seed : Byte) {a : List Byte} {k : Nat} {x : Byte} (hk : k < a.length) (hx : x ≠ byteAt a k) :
    csum seed (a.set k x) ≠ csum seed a := by
  rw [csum_set seed hk]
  intro heq
  have hsame : byteAt a k ^^^ x = 0#8 := (BitVec.xor_right_inj _).mp (heq.trans BitVec.xor_zero.symm)
  exact hx (BitVec.xor_eq_zero_iff.mp hsame).symm

theorem byteAt_set_of_ne {j k : Nat} (h : j ≠ k) (a : List Byte) (x : Byte) : byteAt (a.set j x) k = byteAt a k := by
  rw [byteAt, byteAt, List.getD_eq_getElem?_getD, List.getD_eq_getElem?_getD, List.getElem?_set_ne h]

theorem csum_set_xor_set_xor (seed : Byte) {a : List Byte} {j k : Nat} (hjk : j < k) (hk : k < a.length) (x : Byte) :
    csum seed ((a.set j (byteAt a j ^^^ x)).set k (byteAt a k ^^^ x)) = csum seed a := by
  have hsecond := csum_set_xor seed (a := a.set j (byteAt a j ^^^ x)) (by rwa [List.length_set]) x
  rw [byteAt_set_of_ne hjk.ne] at hsecond
  rw [hsecond, csum_set_xor seed (hjk.trans hk), BitVec.xor_assoc, BitVec.xor_self, BitVec.xor_zero]

/-- The running checksum of a session: blocks folded one after another (R208). -/
theorem foldl_xorBytes (seed : Byte) (blocks : List (List Byte)) :
    blocks.foldl (fun r d => r ^^^ xorBytes d) seed = csum seed blocks.flatten := by
  induction blocks generalizing seed with
  | nil => exact BitVec.xor_zero.symm
  | cons d ds ih => rw [List.foldl_cons, ih, List.flatten_cons, csum, csum, xorBytes_append, BitVec.xor_assoc]

/-- Settles O57: the properties of the exclusive or, seeded. -/
theorem checksumProperties : Obligations.ChecksumProperties := by
  unfold Obligations.ChecksumProperties
  intro seed a b
  refine ⟨BitVec.xor_zero, ?_, ?_, ?_, ?_, ?_⟩
  · rw [csum_append, BitVec.xor_assoc, csum_xor_seed]
  · exact fun hperm => congrArg (seed ^^^ ·) (xorBytes_perm hperm)
  · exact fun _ _ hk hx => csum_set_ne seed hk hx
  · exact fun _ _ x hjk hk => csum_set_xor_set_xor seed hjk hk x
  · exact foldl_xorBytes seed

/-! ## The digest -/

/-- Settles O58: absorbing pieces one after another is absorbing their concatenation. -/
theorem digestDoesNotDependOnChunking : Obligations.DigestDoesNotDependOnChunking := by
  unfold Obligations.DigestDoesNotDependOnChunking
  exact md5Final_foldl

end Sys2Proof.Machine
end

section
/-! Why the boundaries of its input do not show in what the inflater does (R322). An item that has been read whole, or
been found invalid, stays what it is when whole bytes arrive behind it; an item that has not is read again from its
start. So a feed goes on exactly where the feed before it stopped, or stays at its error (R342). -/

namespace Sys2Proof.Machine

/-! ## Bits -/

theorem streamBits_append (a b : List Byte) : streamBits (a ++ b) = streamBits a ++ streamBits b :=
  List.flatMap_append

/-- Input arrives in whole bytes (R323). -/
theorem eight_dvd_length_streamBits (data : List Byte) : 8 ∣ (streamBits data).length := by
  induction data with
  | nil => exact Nat.dvd_zero 8
  | cons x data ih =>
    have hx : (byteBits x).length = 8 := by rw [byteBits, List.length_map, List.length_range]
    rw [streamBits, List.flatMap_cons, List.length_append, hx]
    exact Nat.dvd_add (Nat.dvd_refl 8) ih

/-- A field that was read is its first bit and the field of the bits after it. -/
theorem exists_of_takeBits_succ {n v : Nat} {bs r : List Bool} (h : takeBits (n + 1) bs = some (v, r)) :
    ∃ b tail u, bs = b :: tail ∧ takeBits n tail = some (u, r) ∧ v = b.toNat + 2 * u := by
  cases bs with
  | nil => cases h
  | cons b tail =>
    obtain ⟨⟨u, r'⟩, hrest, heq⟩ := Option.map_eq_some_iff.mp h
    cases heq
    exact ⟨b, tail, u, rfl, hrest, rfl⟩

theorem takeBits_append {n v : Nat} {bs r : List Bool} (h : takeBits n bs = some (v, r)) (w : List Bool) :
    takeBits n (bs ++ w) = some (v, r ++ w) := by
  induction n generalizing bs v with
  | zero => cases h; rfl
  | succ n ih =>
    obtain ⟨b, tail, u, rfl, hrest, rfl⟩ := exists_of_takeBits_succ h
    rw [List.cons_append, takeBits, ih hrest, Option.map_some]

theorem length_of_takeBits {n v : Nat} {bs r : List Bool} (h : takeBits n bs = some (v, r)) :
    r.length + n = bs.length := by
  induction n generalizing bs v with
  | zero => cases h; rfl
  | succ n ih =>
    obtain ⟨b, tail, u, rfl, hrest, rfl⟩ := exists_of_takeBits_succ h
    rw [List.length_cons, ← ih hrest, Nat.add_assoc]

/-- Bits that arrive in whole bytes do not move the byte boundary (R326). -/
theorem alignBits_append (bs : List Bool) {w : List Bool} (hw : 8 ∣ w.length) :
    alignBits (bs ++ w) = alignBits bs ++ w := by
  have hboundary : (bs ++ w).length % 8 = bs.length % 8 := by rw [List.length_append]; omega
  rw [alignBits, hboundary, List.drop_append_of_le_length (Nat.mod_le _ 8), alignBits]

theorem length_alignBits_le (bs : List Bool) : (alignBits bs).length ≤ bs.length := by
  rw [alignBits, List.length_drop]
  exact Nat.sub_le _ _

/-- A decoded symbol with the bits `w` behind those that follow it. -/
def SymbolResult.append (w : List Bool) : SymbolResult → SymbolResult
  | .more => .more
  | .bad => .bad
  | .sym s r => .sym s (r ++ w)

theorem decodeSymbolFrom_append {t : List CodeEntry} {l code : Nat} {bs : List Bool}
    (h : decodeSymbolFrom t l code bs ≠ .more) (w : List Bool) :
    decodeSymbolFrom t l code (bs ++ w) = (decodeSymbolFrom t l code bs).append w := by
  induction bs generalizing l code with
  | nil => exact absurd rfl h
  | cons b bs ih =>
    rw [decodeSymbolFrom] at h
    rw [List.cons_append, decodeSymbolFrom, decodeSymbolFrom]
    split
    · rfl
    next hnone =>
      simp only [hnone] at h
      split
      · rfl
      next hgoOn => exact ih (by rwa [if_neg hgoOn] at h)

theorem length_lt_of_decodeSymbolFrom {t : List CodeEntry} {l code s : Nat} {bs r : List Bool}
    (h : decodeSymbolFrom t l code bs = .sym s r) : r.length < bs.length := by
  induction bs generalizing l code with
  | nil => cases h
  | cons b bs ih =>
    rw [decodeSymbolFrom] at h
    rw [List.length_cons]
    split at h
    · cases h; exact Nat.lt_succ_self _
    · split at h
      · cases h
      · exact Nat.lt_succ_of_lt (ih h)

/-! ## What arriving bits do to an item -/

/-- The inflater with the bits `w` arrived behind those it holds. -/
def Inflate.arrive (w : List Bool) (st : Inflate) : Inflate := { st with bits := st.bits ++ w }

@[simp] theorem arrive_bits (w : List Bool) (st : Inflate) : (st.arrive w).bits = st.bits ++ w := rfl
@[simp] theorem arrive_phase (w : List Bool) (st : Inflate) : (st.arrive w).phase = st.phase := rfl
@[simp] theorem arrive_pend (w : List Bool) (st : Inflate) : (st.arrive w).pend = st.pend := rfl
@[simp] theorem arrive_adler (w : List Bool) (st : Inflate) : (st.arrive w).adler = st.adler := rfl
@[simp] theorem arrive_outTotal (w : List Bool) (st : Inflate) : (st.arrive w).outTotal = st.outTotal := rfl

theorem arrive_arrive (v w : List Bool) (st : Inflate) : (st.arrive v).arrive w = st.arrive (v ++ w) := by
  simp only [Inflate.arrive, List.append_assoc]

/-- `r` is what an item comes to that is read from `n` bits, and `r'` what it comes to when the bits `w` stand behind
them: what has been decided stays, and an item that has been read took at least one bit and is no error. -/
inductive ItemResult.Stable (n : Nat) (w : List Bool) : ItemResult → ItemResult → Prop
  | more (r' : ItemResult) : Stable n w .more r'
  | bad : Stable n w .bad .bad
  | item (st : Inflate) (out : List Byte) (hbits : st.bits.length < n) (hphase : st.phase ≠ .error) :
      Stable n w (.item st out) (.item (st.arrive w) out)

open ItemResult (Stable)

theorem ItemResult.Stable.eq_bad {n : Nat} {w : List Bool} {r' : ItemResult} (h : Stable n w .bad r') :
    r' = .bad := by
  cases h
  rfl

theorem ItemResult.Stable.eq_item {n : Nat} {w : List Bool} {st : Inflate} {out : List Byte} {r' : ItemResult}
    (h : Stable n w (.item st out) r') :
    st.bits.length < n ∧ st.phase ≠ .error ∧ r' = .item (st.arrive w) out := by
  cases h with
  | item _ _ hbits hphase => exact ⟨hbits, hphase, rfl⟩

/-- Reading a field first: an item is stable when what follows the field is. -/
theorem stable_takeBits {n k : Nat} {w bs : List Bool} {f g : Nat → List Bool → ItemResult}
    (h : ∀ v r, r.length + k = bs.length → Stable n w (f v r) (g v (r ++ w))) :
    Stable n w (match takeBits k bs with | none => .more | some (v, r) => f v r)
      (match takeBits k (bs ++ w) with | none => .more | some (v, r) => g v r) := by
  cases htake : takeBits k bs with
  | none => exact .more _
  | some p =>
    obtain ⟨v, r⟩ := p
    rw [takeBits_append htake]
    exact h v r (length_of_takeBits htake)

/-- Decoding a symbol first: an item is stable when what follows the symbol is. -/
theorem stable_decodeSymbol {n : Nat} {t : List CodeEntry} {w bs : List Bool} {f g : Nat → List Bool → ItemResult}
    (h : ∀ s r, r.length < bs.length → Stable n w (f s r) (g s (r ++ w))) :
    Stable n w (match decodeSymbol t bs with | .more => .more | .bad => .bad | .sym s r => f s r)
      (match decodeSymbol t (bs ++ w) with | .more => .more | .bad => .bad | .sym s r => g s r) := by
  have happend := decodeSymbolFrom_append (t := t) (l := 0) (code := 0) (bs := bs) (w := w)
  cases hsym : decodeSymbol t bs with
  | more => exact .more _
  | bad =>
    rw [decodeSymbol] at hsym ⊢
    rw [happend (by simp [hsym]), hsym]
    exact .bad
  | sym s r =>
    rw [decodeSymbol] at hsym ⊢
    rw [happend (by simp [hsym]), hsym]
    exact h s r (length_lt_of_decodeSymbolFrom hsym)

@[simp] theorem blockEnd_phase_ne_error (st : Inflate) : (blockEnd st).phase ≠ .error := by
  rw [blockEnd]
  dsimp only
  split <;> simp

section
variable (window : Nat) (st : Inflate) {w : List Bool}

theorem zlibHeaderItem_stable : Stable st.bits.length w (zlibHeaderItem st) (zlibHeaderItem (st.arrive w)) := by
  unfold zlibHeaderItem
  refine stable_takeBits fun cmf r1 h1 => stable_takeBits fun flg r2 h2 => ?_
  split
  · exact .item _ _ (by dsimp only; omega) (by simp)
  · exact .bad

theorem blockHeaderItem_stable : Stable st.bits.length w (blockHeaderItem st) (blockHeaderItem (st.arrive w)) := by
  unfold blockHeaderItem
  refine stable_takeBits fun bfinal r1 h1 => stable_takeBits fun btype r2 h2 => ?_
  have hbits : r2.length < st.bits.length := by omega
  match btype with
  | 0 => exact .item _ _ hbits (by simp)
  | 1 => exact .item _ _ hbits (by simp)
  | 2 => exact .item _ _ hbits (by simp)
  | _ + 3 => exact .bad

theorem storedHeaderItem_stable (hw : 8 ∣ w.length) (hphase : st.phase ≠ .error) :
    Stable st.bits.length w (storedHeaderItem st) (storedHeaderItem (st.arrive w)) := by
  unfold storedHeaderItem
  have hle := length_alignBits_le st.bits
  rw [arrive_bits, alignBits_append _ hw]
  refine stable_takeBits fun len r1 h1 => stable_takeBits fun nlen r2 h2 => ?_
  have hbits : r2.length < st.bits.length := by omega
  split
  · exact .bad
  split
  · exact .item _ _ hbits (blockEnd_phase_ne_error _)
  · exact .item _ _ hbits hphase

theorem storedByteItem_stable (left : Nat) (hphase : st.phase ≠ .error) :
    Stable st.bits.length w (storedByteItem window left st) (storedByteItem window left (st.arrive w)) := by
  unfold storedByteItem
  refine stable_takeBits fun v r h => ?_
  have hbits : r.length < st.bits.length := by omega
  dsimp only
  split
  · exact .item _ _ hbits (blockEnd_phase_ne_error _)
  · exact .item _ _ hbits hphase

theorem dynamicCountsItem_stable (hphase : st.phase ≠ .error) :
    Stable st.bits.length w (dynamicCountsItem st) (dynamicCountsItem (st.arrive w)) := by
  unfold dynamicCountsItem
  refine stable_takeBits fun hlit r1 h1 => stable_takeBits fun hdist r2 h2 => stable_takeBits fun hclen r3 h3 => ?_
  have hbits : r3.length < st.bits.length := by omega
  split
  · exact .bad
  · exact .item _ _ hbits hphase

theorem codeLengthLengthItem_stable (nlit ndist nclen : Nat) (got : List Nat) (hphase : st.phase ≠ .error) :
    Stable st.bits.length w (codeLengthLengthItem nlit ndist nclen got st)
      (codeLengthLengthItem nlit ndist nclen got (st.arrive w)) := by
  unfold codeLengthLengthItem
  refine stable_takeBits fun v r h => ?_
  have hbits : r.length < st.bits.length := by omega
  dsimp only
  split
  · exact .item _ _ hbits hphase
  split
  · exact .item _ _ hbits hphase
  · exact .bad

theorem addLengths_stable {r : List Bool} (nlit ndist : Nat) (code : List CodeEntry) (got more : List Nat)
    (hphase : st.phase ≠ .error) (hbits : r.length < st.bits.length) :
    Stable st.bits.length w (addLengths nlit ndist code got more r st)
      (addLengths nlit ndist code got more (r ++ w) (st.arrive w)) := by
  unfold addLengths
  dsimp only
  split
  · exact .bad
  split
  · exact .item _ _ hbits hphase
  split
  · exact .item _ _ hbits (by simp)
  · exact .bad

theorem codeLengthItem_stable (nlit ndist : Nat) (code : List CodeEntry) (got : List Nat)
    (hphase : st.phase ≠ .error) :
    Stable st.bits.length w (codeLengthItem nlit ndist code got st)
      (codeLengthItem nlit ndist code got (st.arrive w)) := by
  have hadd : ∀ (more : List Nat) {r : List Bool}, r.length < st.bits.length →
      Stable st.bits.length w (addLengths nlit ndist code got more r st)
        (addLengths nlit ndist code got more (r ++ w) (st.arrive w)) :=
    fun more _ hbits => addLengths_stable st nlit ndist code got more hphase hbits
  unfold codeLengthItem
  refine stable_decodeSymbol fun s r hs => ?_
  split
  · exact hadd _ hs
  split
  · refine stable_takeBits fun e r' h => ?_
    cases got.getLast? with
    | none => exact .bad
    | some prev => exact hadd _ (by omega)
  split
  · exact stable_takeBits fun e r' h => hadd _ (by omega)
  · exact stable_takeBits fun e r' h => hadd _ (by omega)

theorem literalItem_stable (hphase : st.phase ≠ .error) :
    Stable st.bits.length w (literalItem window st) (literalItem window (st.arrive w)) := by
  unfold literalItem
  refine stable_decodeSymbol fun s r hs => ?_
  split
  · exact .item _ _ hs hphase
  split
  · exact .item _ _ hs (blockEnd_phase_ne_error _)
  cases lengthTable[s - 257]? with
  | none => exact .bad
  | some p =>
    refine stable_takeBits fun e r' h => ?_
    have hbits : r'.length < st.bits.length := by omega
    exact .item _ _ hbits hphase

/-- A copy reads and writes the history, whatever bits stand behind it. -/
theorem copyBytes_arrive (d n : Nat) :
    copyBytes window d n (st.arrive w) = ((copyBytes window d n st).1.arrive w, (copyBytes window d n st).2) := by
  induction n generalizing st with
  | zero => rfl
  | succ n ih =>
    have hbyte : ∀ x, outputByte window (st.arrive w) x = (outputByte window st x).arrive w := fun _ => rfl
    simp only [copyBytes, hbyte, ih]
    rfl

/-- A copy takes no bits and stays in its phase. -/
theorem copyBytes_frame (d n : Nat) :
    (copyBytes window d n st).1.bits = st.bits ∧ (copyBytes window d n st).1.phase = st.phase := by
  induction n generalizing st with
  | zero => exact ⟨rfl, rfl⟩
  | succ n ih => exact ih (outputByte window st _)

theorem distanceItem_stable (len : Nat) (hphase : st.phase ≠ .error) :
    Stable st.bits.length w (distanceItem window len st) (distanceItem window len (st.arrive w)) := by
  unfold distanceItem
  refine stable_decodeSymbol fun s r hs => ?_
  cases distanceTable[s]? with
  | none => exact .bad
  | some p =>
    refine stable_takeBits fun e r' h => ?_
    have hless : r'.length < st.bits.length := by omega
    rw [arrive_outTotal]
    split
    · exact .bad
    · have hcopy := copyBytes_arrive window { st with bits := r', pend := .none } (w := w) (p.2 + e) len
      obtain ⟨hbits, hphase'⟩ := copyBytes_frame window { st with bits := r', pend := .none } (p.2 + e) len
      unfold Inflate.arrive at hcopy ⊢
      rw [hcopy]
      exact .item _ _ (by rwa [hbits]) (by rwa [hphase'])

theorem trailerItem_stable (hw : 8 ∣ w.length) :
    Stable st.bits.length w (trailerItem st) (trailerItem (st.arrive w)) := by
  unfold trailerItem
  have hle := length_alignBits_le st.bits
  rw [arrive_bits, alignBits_append _ hw]
  refine stable_takeBits fun b3 r1 h1 => stable_takeBits fun b2 r2 h2 => stable_takeBits fun b1 r3 h3 =>
    stable_takeBits fun b0 r4 h4 => ?_
  have hbits : r4.length < st.bits.length := by omega
  rw [arrive_adler]
  split
  · exact .item _ _ hbits (by simp)
  · exact .bad

/-- R322 for one item, in every phase. -/
theorem inflateItem_stable (hw : 8 ∣ w.length) :
    Stable st.bits.length w (inflateItem window st) (inflateItem window (st.arrive w)) := by
  unfold inflateItem
  rw [arrive_phase, arrive_pend]
  cases hphase : st.phase with
  | zhdr => exact zlibHeaderItem_stable st
  | blkhdr => exact blockHeaderItem_stable st
  | stored =>
    have hne : st.phase ≠ .error := by simp [hphase]
    cases st.pend with
    | storedBytes left => exact storedByteItem_stable window st left hne
    | _ => exact storedHeaderItem_stable st hw hne
  | dynhdr =>
    have hne : st.phase ≠ .error := by simp [hphase]
    cases st.pend with
    | none => exact dynamicCountsItem_stable st hne
    | codeLengthLengths nlit ndist nclen got => exact codeLengthLengthItem_stable st nlit ndist nclen got hne
    | codeLengths nlit ndist code got => exact codeLengthItem_stable st nlit ndist code got hne
    | _ => exact .bad
  | codes =>
    have hne : st.phase ≠ .error := by simp [hphase]
    cases st.pend with
    | none => exact literalItem_stable window st hne
    | copyLength len => exact distanceItem_stable window st len hne
    | _ => exact .bad
  | trailer => exact trailerItem_stable st hw
  | done =>
    dsimp only
    split
    · exact .more _
    next hsome =>
      rw [if_neg (by simp [hsome])]
      exact .bad
  | error => exact .more _

end

/-! ## Runs of items -/

/-- The bits an inflater holds, decoded as far as they go: the fuel is that of `inflateFeed` (`inflateFeed_eq`). -/
def inflateRun (window : Nat) (st : Inflate) : List Byte × Inflate := inflateItems window (st.bits.length + 1) st

/-- The inflater after an invalid item (R342, log 17). -/
def Inflate.failed (st : Inflate) : Inflate := { st with phase := .error, bits := [], pend := .none }

section
variable {window : Nat} {st st' : Inflate} {out : List Byte}

theorem inflateItem_progress (h : inflateItem window st = .item st' out) :
    st'.bits.length < st.bits.length ∧ st'.phase ≠ .error := by
  have hstable := inflateItem_stable window st (w := []) (Nat.dvd_zero 8)
  rw [h] at hstable
  obtain ⟨hbits, hphase, _⟩ := hstable.eq_item
  exact ⟨hbits, hphase⟩

/-- Every item takes a bit, so any fuel above the number of bits is enough. -/
theorem inflateItems_eq_of_lt {n m : Nat} (hn : st.bits.length < n) (hm : st.bits.length < m) :
    inflateItems window n st = inflateItems window m st := by
  induction n generalizing st m with
  | zero => omega
  | succ n ih =>
    cases m with
    | zero => omega
    | succ m =>
      rw [inflateItems, inflateItems]
      cases hitem : inflateItem window st with
      | more | bad => rfl
      | item st' out =>
        have hless := (inflateItem_progress hitem).1
        simp only [ih (st := st') (m := m) (by omega) (by omega)]

theorem inflateRun_of_more (h : inflateItem window st = .more) : inflateRun window st = ([], st) := by
  rw [inflateRun, inflateItems, h]

theorem inflateRun_of_bad (h : inflateItem window st = .bad) : inflateRun window st = ([], st.failed) := by
  rw [inflateRun, inflateItems, h]
  rfl

theorem inflateRun_of_item (h : inflateItem window st = .item st' out) :
    inflateRun window st = (out ++ (inflateRun window st').1, (inflateRun window st').2) := by
  have hfuel : inflateItems window st.bits.length st' = inflateRun window st' :=
    inflateItems_eq_of_lt (inflateItem_progress h).1 (Nat.lt_succ_self _)
  rw [inflateRun, inflateItems, h, ← hfuel]

end

/-- A feed of some bits (R341): ERROR is kept, otherwise decoding goes on with them (R322, R342). -/
def feedBits (window : Nat) (st : Inflate) (w : List Bool) : List Byte × Inflate :=
  if st.phase = .error then ([], st) else inflateRun window (st.arrive w)

theorem inflateFeed_eq {data : List Byte} (hdata : data ≠ []) (window : Nat) (st : Inflate) :
    inflateFeed window st data = feedBits window st (streamBits data) := if_neg hdata

theorem feedBits_of_ne_error {st : Inflate} (h : st.phase ≠ .error) (window : Nat) (w : List Bool) :
    feedBits window st w = inflateRun window (st.arrive w) := if_neg h

theorem feedBits_of_error {st : Inflate} (h : st.phase = .error) (window : Nat) (w : List Bool) :
    feedBits window st w = ([], st) := if_pos h

/-- Whole bytes that arrive behind a run are decoded from where the run alone stops. -/
theorem inflateRun_arrive {window : Nat} {w : List Bool} (hw : 8 ∣ w.length) (st : Inflate)
    (hphase : st.phase ≠ .error) :
    inflateRun window (st.arrive w)
      = ((inflateRun window st).1 ++ (feedBits window (inflateRun window st).2 w).1,
         (feedBits window (inflateRun window st).2 w).2) := by
  have hstable := inflateItem_stable window st hw
  cases hitem : inflateItem window st with
  | more => rw [inflateRun_of_more hitem, feedBits_of_ne_error hphase]; rfl
  | bad =>
    rw [hitem] at hstable
    rw [inflateRun_of_bad hitem, inflateRun_of_bad hstable.eq_bad, feedBits_of_error rfl]
    rfl
  | item st' out =>
    rw [hitem] at hstable
    obtain ⟨hless, hphase', hgrown⟩ := hstable.eq_item
    rw [inflateRun_of_item hitem, inflateRun_of_item hgrown, inflateRun_arrive hw st' hphase', List.append_assoc]
termination_by st.bits.length

/-- Settles O59: an empty piece and ERROR change nothing; otherwise the second piece arrives behind the run of the
first. -/
theorem inflateDoesNotDependOnBoundaries : Obligations.InflateDoesNotDependOnBoundaries := by
  unfold Obligations.InflateDoesNotDependOnBoundaries
  intro window st a b
  have hnil : ∀ t, inflateFeed window t [] = ([], t) := fun _ => rfl
  by_cases ha : a = []
  · rw [ha, List.nil_append, hnil, List.nil_append]
  by_cases hb : b = []
  · rw [hb, List.append_nil, hnil, List.append_nil]
  rw [inflateFeed_eq (List.append_ne_nil_of_left_ne_nil ha b), inflateFeed_eq ha, inflateFeed_eq hb, streamBits_append]
  by_cases herror : st.phase = .error
  · simp only [feedBits_of_error herror, List.append_nil]
  · rw [feedBits_of_ne_error herror, feedBits_of_ne_error herror, ← arrive_arrive]
    exact inflateRun_arrive (eight_dvd_length_streamBits b) (st.arrive (streamBits a)) herror

end Sys2Proof.Machine
end

section
/-! The external reset and the state it leaves (R383, R400). -/

namespace Sys2Proof.Machine

variable {s : State}

/-- The external reset is taken in any mode, also while MAIN waits for an answer (R383, R417). -/
theorem step_reset {es : List Event} (hok : s.cfg.ok = true) (hi : s.inbox = .reset :: es) :
    step s = .next (externalReset { s with inbox := es }) := by
  rw [step_eq_eventStep hok, hi]
  rfl

/-- Settles O20: the step is the external reset, which writes each field of R22 and copies the storage. -/
theorem resetGivesResetState : Obligations.ResetGivesResetState := by
  unfold Obligations.ResetGivesResetState
  constructor
  · intro s es hok hi
    refine ⟨externalReset { s with inbox := es }, step_reset hok hi, ?_⟩
    and_intros <;> rfl
  · and_intros <;> rfl

/-- Settles O23: the default parameters keep R6; the queue, the frame buffer and the storage are empty, and there is no
session, stream, cause or outstanding answer for the other clauses to speak of. -/
theorem invariantAtReset : Obligations.InvariantAtReset where
  params := by decide
  transport := rfl
  fifo := Nat.zero_le _
  counted := ⟨nofun, fun h => absurd rfl h⟩
  frame := Nat.zero_le _
  hunt := fun _ => rfl
  boot := fun _ => ⟨rfl, rfl⟩
  session := rfl
  stream := nofun
  fatal := ⟨fun h => absurd rfl h, nofun⟩
  reached := nofun
  waiting := nofun
  flash := ⟨reset_flash_wf, rfl⟩
  ram := ⟨reset_ram_wf, rfl⟩
  regs := ⟨reset_regs_wf, rfl⟩

end Sys2Proof.Machine
end
